-- ==== Sys2Proof/Word.lean ====
section
/-! DEFINITION. The word types of the chip8_rs CORE (00_scope.md rule R4, rule R5): bytes, 16-bit words and 4-bit register
numbers. All are unsigned; bit 0 is the least significant bit. -/

namespace Sys2Proof

/-- An 8-bit value: a general register, a memory byte, a timer (R4: `XLEN` = 8). -/
abbrev Byte := BitVec 8

/-- A 16-bit value: the instruction word, `PC`, `I`, a stack entry (R14, R15, R16, R60). -/
abbrev Word := BitVec 16

/-- A register number, the 4-bit field `X` or `Y` of an instruction word (R61, R68: all sixteen values are legal). -/
abbrev Reg := BitVec 4

/-- The number of `VF`, the register that doubles as the flag register (R13). -/
abbrev VF : Reg := 15#4

/-- The number of `V0`, the implicit offset register of JP V0 (R12, R93). -/
abbrev V0 : Reg := 0#4

end Sys2Proof
end

