-- ==== Sys2Proof/Config.lean ====
section
/-! DEFINITION. What is fixed for one machine (00_scope.md rule R4): the sizes the source fixes, as constants; the five
parameters the spec leaves as configuration, as the fields of `Config` with the spec's defaults; and the one value no rule
fixes, the entropy byte of a STEP, as an opaque constant. -/

namespace Sys2Proof

/-- `MEM_SIZE` (R4, R11): bytes of memory, addresses 0 to 4095. -/
abbrev memSize : Nat := 4096

/-- `PROG_BASE` (R4, R201): the first address of a loaded program image. -/
abbrev progBase : Nat := 0x200

/-- `MAX_IMAGE` (R4, R202): the largest accepted image length. -/
abbrev maxImage : Nat := 3584

/-- `FONT_BYTES` (R4): the size of the built-in font. -/
abbrev fontBytes : Nat := 80

/-- `GLYPH_BYTES` (R4): the size of one glyph. -/
abbrev glyphBytes : Nat := 5

/-- The default `FONT_DATA` (10_state.md rule R11, decision D4): sixteen glyphs of five rows, top row first. -/
def defaultFont : Vector Byte fontBytes :=
  #v[0xF0, 0x90, 0x90, 0x90, 0xF0,
     0x20, 0x60, 0x20, 0x20, 0x70,
     0xF0, 0x10, 0xF0, 0x80, 0xF0,
     0xF0, 0x10, 0xF0, 0x10, 0xF0,
     0x90, 0x90, 0xF0, 0x10, 0x10,
     0xF0, 0x80, 0xF0, 0x10, 0xF0,
     0xF0, 0x80, 0xF0, 0x90, 0xF0,
     0xF0, 0x10, 0x20, 0x40, 0x40,
     0xF0, 0x90, 0xF0, 0x90, 0xF0,
     0xF0, 0x90, 0xF0, 0x10, 0xF0,
     0xF0, 0x90, 0xF0, 0x90, 0x90,
     0xE0, 0x90, 0xE0, 0x90, 0xE0,
     0xF0, 0x80, 0x80, 0x80, 0xF0,
     0xE0, 0x90, 0x90, 0x90, 0xE0,
     0xF0, 0x80, 0xF0, 0x80, 0xF0,
     0xF0, 0x80, 0xF0, 0x80, 0x80]

/-- The parameters a model takes (R4; 92_eei_decisions.md, summary), each with the spec's default. A machine is built with one
configuration, which its state carries (log entry 1): the meanings, the events, fetching and reset read the parameters from
there, so that a claim about every state quantifies over them and a claim about one configuration names it. -/
structure Config where
  /-- `FONT_BASE` (D3): the address of glyph 0. -/
  fontBase : Nat := 0x000
  /-- `FONT_DATA` (D4, R11): the font bytes. -/
  fontData : Vector Byte fontBytes := defaultFont
  /-- `RESET_PC` (D2, R26): the program counter after reset. -/
  resetPc : Word := 0x200
  /-- `ADD_IMM_WRITES_VF` (D5, R101): whether ADD Vx,byte reports its carry in `VF`. -/
  addImmWritesVf : Bool := false
  /-- `SPRITE_ROW_BIAS` (D21, R142): DRW draws `N` plus this many rows. -/
  spriteRowBias : Nat := 1
deriving DecidableEq, Repr

/-- The default configuration: every parameter at the value the spec gives it (log entry 1). -/
def Config.core : Config := {}

/-- UNCONSTRAINED (R111, R153, log entry 3): the entropy input that the host presents with the n-th STEP that no pending
event names. It has no body: nothing can be proved of a value of it, so a claim holds for every byte and for `none`. -/
opaque Config.entropy : Nat → Option Byte

end Sys2Proof
end

