-- ==== Sys2Proof/Syntax.lean ====
section
/-! DEFINITION. The instructions (30_encoding.md rule R63): one constructor per row of spec/opcode_table.json, in the table's
order, with the operand fields the row names (R61, R62). Operand fields are bit vectors of the width the encoding gives them
(R68: used as extracted, unsigned, no sign extension), so an operand out of range cannot be written down. -/

namespace Sys2Proof

/-- The thirty-four instructions of R63. `x`, `y` are register numbers, `n` a 4-bit, `nn` an 8-bit and `nnn` a 12-bit literal. -/
inductive Instr where
  /-- `0-E0` CLS, clear the video buffer (R141). -/
  | cls
  /-- `0-EE` RET, return from subroutine (R90). -/
  | ret
  /-- `1NNN` JP addr (R91). -/
  | jp (nnn : BitVec 12)
  /-- `2NNN` CALL addr (R92). -/
  | call (nnn : BitVec 12)
  /-- `3XNN` SE Vx, byte (R94). -/
  | seByte (x : Reg) (nn : Byte)
  /-- `4XNN` SNE Vx, byte (R95). -/
  | sneByte (x : Reg) (nn : Byte)
  /-- `5XY-` SE Vx, Vy (R96). -/
  | seReg (x y : Reg)
  /-- `6XNN` LD Vx, byte (R100). -/
  | ldByte (x : Reg) (nn : Byte)
  /-- `7XNN` ADD Vx, byte (R101). -/
  | addByte (x : Reg) (nn : Byte)
  /-- `8XY0` LD Vx, Vy (R102). -/
  | ldReg (x y : Reg)
  /-- `8XY1` OR Vx, Vy (R103). -/
  | orReg (x y : Reg)
  /-- `8XY2` AND Vx, Vy (R104). -/
  | andReg (x y : Reg)
  /-- `8XY3` XOR Vx, Vy (R105). -/
  | xorReg (x y : Reg)
  /-- `8XY4` ADD Vx, Vy (R106). -/
  | addReg (x y : Reg)
  /-- `8XY5` SUB Vx, Vy (R107). -/
  | sub (x y : Reg)
  /-- `8XY6` SHR Vx (R108); the `Y` nibble is not an operand (R65). -/
  | shr (x : Reg)
  /-- `8XY7` SUBN Vx, Vy (R109). -/
  | subn (x y : Reg)
  /-- `8XYE` SHL Vx (R110); the `Y` nibble is not an operand (R65). -/
  | shl (x : Reg)
  /-- `9XY-` SNE Vx, Vy (R97). -/
  | sneReg (x y : Reg)
  /-- `ANNN` LD I, addr (R120). -/
  | ldI (nnn : BitVec 12)
  /-- `BNNN` JP V0, addr (R93). -/
  | jpV0 (nnn : BitVec 12)
  /-- `CXNN` RND Vx, byte (R111). -/
  | rnd (x : Reg) (nn : Byte)
  /-- `DXYN` DRW Vx, Vy, nibble (R142). -/
  | drw (x y : Reg) (n : BitVec 4)
  /-- `EX9E` SKP Vx (R133). -/
  | skp (x : Reg)
  /-- `EXA1` SKNP Vx (R134). -/
  | sknp (x : Reg)
  /-- `FX07` LD Vx, DT (R130). -/
  | ldVxDt (x : Reg)
  /-- `FX0A` LD Vx, K (R135). -/
  | ldVxK (x : Reg)
  /-- `FX15` LD DT, Vx (R131). -/
  | ldDtVx (x : Reg)
  /-- `FX18` LD ST, Vx (R132). -/
  | ldStVx (x : Reg)
  /-- `FX1E` ADD I, Vx (R121). -/
  | addI (x : Reg)
  /-- `FX29` LD F, Vx (R122). -/
  | ldF (x : Reg)
  /-- `FX33` LD B, Vx (R123). -/
  | ldB (x : Reg)
  /-- `FX55` LD [I], Vx (R124). -/
  | storeRegs (x : Reg)
  /-- `FX65` LD Vx, [I] (R125). -/
  | loadRegs (x : Reg)
deriving DecidableEq, Repr

end Sys2Proof
end

