-- ==== Sys2Proof/WellFormed.lean ====
section
/-! DEFINITION. The checks on data the types do not bound. An `Instr` needs none: its operands are bit vectors of exactly the
widths of 30_encoding.md rule R61 and rule R68 makes every value of every field legal, so every `Instr` is well formed and a
statement about all instructions is about the well-formed ones. What remains is the configuration and a program image. -/

namespace Sys2Proof

/-- R4: the font must end below the program area, `FONT_BASE + 80 <= 0x200`. -/
def Config.fontFits (c : Config) : Bool := c.fontBase + fontBytes ≤ progBase

/-- R4, 90_conflicts.md C6: the sprite row bias is 1, or 0 under the reading set aside. -/
def Config.biasLegal (c : Config) : Bool := c.spriteRowBias ≤ 1

/-- A configuration the spec allows. -/
def Config.wf (c : Config) : Bool := c.fontFits && c.biasLegal

/-- R202: an image of at most 3584 bytes is accepted, a longer one is rejected. -/
def imageFits (image : List Byte) : Bool := image.length ≤ maxImage

end Sys2Proof
end

