-- ==== Sys2Proof/Machine/State.lean ====
section
/-! DEFINITION. The state of the machine as plain data (10_state.md rule R10): the spec's own state first, then five fields of
the model's own that carry the configuration and what the spec calls inputs and outputs of an event (R4, R25, R150; log
entries 1 to 5). -/

namespace Sys2Proof.Machine

/-- The four fatal faults (60_exceptions.md rule R171). A fault is entered as the spec describes (R178): it is written to
`FAULT` and the machine is in a quiescent next state, so NO step of this model ends in `Outcome.fault` (log entry 6). Taking
the entry is safe or unsafe exactly as far as the spec's decision D10 is. -/
inductive Fault where
  /-- Raised by CALL with `SP = 16` (R172). -/
  | stackOverflow
  /-- Raised by RET with `SP = 0` (R173). -/
  | stackUnderflow
  /-- Raised by RND when the entropy input is `none` (R174). -/
  | entropyUnavailable
  /-- Raised by fetch, DRW, LD B, LD [I] and LD Vx,[I] reaching above address 4095 (R175). -/
  | addressOutOfRange
deriving DecidableEq, Repr

/-- Why a step has no meaning. -/
inductive Refusal where
  /-- Raised by an arm of `exec` whose instruction has no meaning yet: none in this model. Safe: the machine stops. -/
  | notModelled (mnemonic : String)
deriving DecidableEq, Repr

/-- `MEM` (R11) as the cells that differ from the reset contents, addresses strictly rising. -/
abbrev Memory := List Host.Cell

/-- `FB` (R20): 32 rows, row 0 at the top. A row holds 64 one-bit pixels: bit `x` is the pixel in column `x`, column 0 at the
left (log entry 7). -/
abbrev Framebuffer := Vector (BitVec 64) 32

/-- The set of signals one event returns (50_interfaces.md rule R154). -/
structure Signals where
  redraw : Bool := false
  await : Bool := false
  unrecognized : Bool := false
  beep : Bool := false
deriving DecidableEq, Repr

/-- The result of a LOAD event (R150, R176, R201). -/
inductive LoadResult where
  | ok
  | oversizeProgram
deriving DecidableEq, Repr

/-- The outputs of the latest event (R150). MODEL'S OWN, not state of the core (R25): an event overwrites all of it, and
nothing reads it. -/
structure Output where
  /-- The signals returned (R154). -/
  signals : Signals := {}
  /-- The info value of a raised fault: the first address above 4095 the access would touch (R171). -/
  info : Option Nat := none
  /-- The result of READ_VIDEO: the pixels, and `DIRTY` as it was (R155). -/
  video : Option (Framebuffer × Bool) := none
  /-- The result of LOAD (R201, R202). -/
  load : Option LoadResult := none
deriving DecidableEq, Repr

/-- The six events through which the host drives the core (50_interfaces.md rule R150), with their inputs. -/
inductive Event where
  /-- RESET (R200). -/
  | reset
  /-- LOAD(image) (R201). -/
  | load (image : List Byte)
  /-- STEP(rnd), with the entropy input presented with it (R80, R153). -/
  | step (rnd : Option Byte)
  /-- TICK (R183). -/
  | tick
  /-- SET_KEY(index, pressed) (R185); the index is a 4-bit operand, so 0 to 15 by construction. -/
  | setKey (index : BitVec 4) (pressed : Bool)
  /-- READ_VIDEO (R155). -/
  | readVideo
deriving DecidableEq, Repr

/-- The complete state of the core (R10), and the model's own inputs and outputs. -/
structure State where
  /-- MODEL'S OWN (log entry 1): the configuration this machine is built with (R4). Not state of the core (R25): no instruction
  and no event changes it. -/
  cfg : Config
  /-- `MEM`, 4096 bytes (R11), held sparsely. -/
  mem : Memory
  /-- `V[0]` to `V[15]` (R12, R13). -/
  v : Vector Byte 16
  /-- `I`, 16 bits (R14). -/
  i : Word
  /-- `PC`, 16 bits (R15). -/
  pc : Word
  /-- `STACK[0]` to `STACK[15]`, 16 bits each (R16). -/
  stack : Vector Word 16
  /-- `SP`, the number of valid entries, range 0 to 16 (R16). -/
  sp : Fin 17
  /-- `DT`, the delay timer (R17). -/
  dt : Byte
  /-- `ST`, the sound timer (R18). -/
  st : Byte
  /-- `KEYS`, bit n = key n held (R19). -/
  keys : BitVec 16
  /-- `FB`, the video buffer (R20). -/
  fb : Framebuffer
  /-- `DIRTY` (R21). -/
  dirty : Bool
  /-- `WAIT` (R22). -/
  wait : Bool
  /-- `KL_VALID` (R23). -/
  klValid : Bool
  /-- `KL_KEY`, 4 bits (R23). -/
  klKey : BitVec 4
  /-- `FAULT` (R24): `none` is code 0, `some f` the code of `f` (R171). -/
  fault : Option Fault
  /-- MODEL'S OWN (log entry 4): the entropy input presented with the STEP under way (R153). -/
  rnd : Option Byte
  /-- MODEL'S OWN (log entry 5): the outputs of the latest event. -/
  out : Output
  /-- MODEL'S OWN (log entry 2): the events the host has issued and the core has not yet performed, first to come first. -/
  pending : List Event
  /-- MODEL'S OWN (log entry 3): how many free entropy inputs have been drawn; the argument of `Config.entropy`. -/
  draws : Nat
deriving DecidableEq, Repr

/-- The state right after RESET and at power-up of a machine with configuration `c` (R26, R200): memory at its reset contents
(nothing listed), `PC` at `RESET_PC`, everything else zero. The model's own inputs and outputs are empty (log entries 2 to 5). -/
def State.resetOf (c : Config) : State where
  cfg := c
  mem := []
  v := Vector.replicate 16 0
  i := 0
  pc := c.resetPc
  stack := Vector.replicate 16 0
  sp := 0
  dt := 0
  st := 0
  keys := 0
  fb := Vector.replicate 32 0
  dirty := false
  wait := false
  klValid := false
  klKey := 0
  fault := none
  rnd := none
  out := {}
  pending := []
  draws := 0

/-- The reset state of the machine with the spec's default parameters (R4, log entry 1). -/
def State.reset : State := State.resetOf Config.core

end Sys2Proof.Machine
end

