-- ==== Sys2Proof/Machine/Ops.lean ====
section
/-! DEFINITION. The operations every meaning is written over: memory (20_memory.md), registers, the program counter
(40_step_cycle.md rule R82), the call stack, the signals, and taking a fault (60_exceptions.md rule R178). -/

namespace Sys2Proof.Machine

/-! ### Memory -/

/-- What an address that `Memory` does not list reads as: its reset contents (R26, R29), which are `FONT_DATA` from
`FONT_BASE` upward and zero elsewhere (R11). -/
def Memory.unlisted (c : Config) (a : Nat) : Byte :=
  if c.fontBase ≤ a then c.fontData.toList.getD (a - c.fontBase) 0 else 0

/-- `MEM[a]`. -/
def Memory.read (c : Config) : Memory → Nat → Byte
  | [], a => Memory.unlisted c a
  | (k, b) :: m, a => if a = k then b else Memory.read c m a

/-- Puts a cell before `m`, or nothing where the byte is the reset contents, so that the form stays canonical. -/
def Memory.cons (c : Config) (a : Nat) (b : Byte) (m : Memory) : Memory :=
  if b = Memory.unlisted c a then m else (a, b) :: m

/-- `MEM[a] <- b`, keeping the canonical form. -/
def Memory.write (c : Config) : Memory → Nat → Byte → Memory
  | [], a, b => Memory.cons c a b []
  | (k, d) :: m, a, b =>
    if a < k then Memory.cons c a b ((k, d) :: m)
    else if a = k then Memory.cons c a b m
    else (k, d) :: Memory.write c m a b

/-- The bytes `bs` at `a` and upward, in ascending order (R43). -/
def Memory.writeBytes (c : Config) : Memory → Nat → List Byte → Memory
  | m, _, [] => m
  | m, a, b :: bs => Memory.writeBytes c (Memory.write c m a b) (a + 1) bs

/-- Every listed address is above `lo`, rising, inside the address space, and its byte differs from the reset contents. -/
def Memory.wfAbove (c : Config) : Nat → Memory → Bool
  | _, [] => true
  | lo, (k, b) :: m => lo ≤ k && k < memSize && b != Memory.unlisted c k && Memory.wfAbove c (k + 1) m

/-- The canonical form of memory: addresses strictly rising and below 4096, no entry equal to the reset contents. -/
def Memory.wf (c : Config) (m : Memory) : Bool := Memory.wfAbove c 0 m

/-- A fault being raised, with the info value reported with it (R171). -/
structure Raise where
  fault : Fault
  info : Option Nat
deriving DecidableEq, Repr

/-- The range check of R41, in unbounded arithmetic: the result if all of `[a, a + n)` lies in `MEM`, otherwise
`AddressOutOfRange` with the first address above 4095 (R41, R47). -/
def guardRange {α : Type} (a n : Nat) (x : α) : Except Raise α :=
  if a + n ≤ memSize then .ok x else .error ⟨.addressOutOfRange, some (max a memSize)⟩

/-- `MemRead(a, n)` (R41): the bytes at `a` to `a + n - 1`, lowest address first. -/
def memRead (c : Config) (m : Memory) (a n : Nat) : Except Raise (List Byte) :=
  guardRange a n ((List.range n).map fun k => m.read c (a + k))

/-- `MemWrite(a, n, v)` (R41), the whole range checked before the first byte is written (R47). -/
def memWrite (c : Config) (m : Memory) (a : Nat) (bs : List Byte) : Except Raise Memory :=
  guardRange a bs.length (m.writeBytes c a bs)

/-- The instruction word at an address, most significant byte first (R42). -/
def Memory.wordAt (c : Config) (m : Memory) (a : Nat) : Word := wordOfBytes (m.read c a) (m.read c (a + 1))

/-- `Fetch()` (40_step_cycle.md rule R81): the two bytes at `PC`; the fault if `PC > 4094`. -/
def fetch (s : State) : Except Raise Word := guardRange s.pc.toNat 2 (s.mem.wordAt s.cfg s.pc.toNat)

/-! ### Registers and the program counter -/

/-- The place of a register in `V`. -/
def regIndex (x : Reg) : Fin 16 := ⟨x.toNat, x.isLt⟩

/-- `V[x]`. -/
def State.reg (s : State) (x : Reg) : Byte := s.v[regIndex x]

/-- `V[x] <- b`. -/
def State.setReg (s : State) (x : Reg) (b : Byte) : State := { s with v := s.v.set (regIndex x) b }

/-- `pc <- target`. -/
def State.setPc (s : State) (target : Word) : State := { s with pc := target }

/-- The sequential class of R82: `pc <- (PC + 2) mod 65536`. -/
def State.advance (s : State) : State := s.setPc (s.pc + 2)

/-- The skip class of R82: `PC + 4` if the condition holds, `PC + 2` if it does not. -/
def State.skipIf (s : State) (cond : Bool) : State := s.setPc (if cond then s.pc + 4 else s.pc + 2)

/-! ### Signals and faults -/

/-- The named `redraw` signal, added to what the event returns (R144). -/
def State.signalRedraw (s : State) : State :=
  { s with out := { s.out with signals := { s.out.signals with redraw := true } } }

/-- The named `await` signal (R135). -/
def State.signalAwait (s : State) : State :=
  { s with out := { s.out with signals := { s.out.signals with await := true } } }

/-- The named `unrecognized` signal (R83). -/
def State.signalUnrecognized (s : State) : State :=
  { s with out := { s.out with signals := { s.out.signals with unrecognized := true } } }

/-- `raise F(info)` (R178): `FAULT` takes the fault's code, the event returns no signal but the info value, and no other state
changes. Control goes nowhere: there is no vector, no saved `PC` and no return (R179); only RESET and LOAD clear `FAULT`. -/
def State.raise (s : State) (e : Raise) : State :=
  { s with fault := some e.fault, out := { info := e.info } }

/-- The state after a checked operation: its continuation if the check passed, the fault taken in `s` if it did not. Since the
fault is taken in the state at the start of the instruction, faults are precise (R86). -/
def State.orRaise {α : Type} (s : State) (r : Except Raise α) (k : α → State) : State :=
  match r with
  | .ok a => k a
  | .error e => s.raise e

/-- The code of a fault (R171). -/
def Fault.code : Fault → BitVec 3
  | .stackOverflow => 1
  | .stackUnderflow => 2
  | .entropyUnavailable => 3
  | .addressOutOfRange => 4

/-- The 3-bit value of `FAULT` (R24, R171): 0 when none. -/
def State.faultCode (s : State) : BitVec 3 :=
  match s.fault with
  | none => 0
  | some f => f.code

/-! ### The call stack -/

/-- A push (R92): `STACK[SP] <- w`, `SP <- SP + 1`; the fault if `SP = 16` (R172). -/
def State.push (s : State) (w : Word) : Except Raise State :=
  if h : s.sp.val < 16 then
    .ok { s with stack := s.stack.set s.sp.val w h, sp := ⟨s.sp.val + 1, Nat.succ_lt_succ h⟩ }
  else .error ⟨.stackOverflow, none⟩

/-- A pop (R90): `SP <- SP - 1`, and the entry the new `SP` indexes, which stays in place (R16); the fault if `SP = 0` (R173). -/
def State.pop (s : State) : Except Raise (State × Word) :=
  if s.sp.val = 0 then .error ⟨.stackUnderflow, none⟩
  else .ok ({ s with sp := ⟨s.sp.val - 1, by omega⟩ }, s.stack[s.sp.val - 1]'(by omega))

/-! ### Pixels -/

/-- `FB[y][x]`. -/
def Framebuffer.pixel (fb : Framebuffer) (x : Fin 64) (y : Fin 32) : Bool := fb[y].getLsbD x.val

/-- `FB[y][x] <- FB[y][x] XOR 1`. -/
def Framebuffer.flip (fb : Framebuffer) (x : Fin 64) (y : Fin 32) : Framebuffer :=
  fb.set y (fb[y] ^^^ BitVec.twoPow 64 x.val)

/-- All 2048 pixels 0. -/
def Framebuffer.clear : Framebuffer := Vector.replicate 32 0

end Sys2Proof.Machine
end

