-- ==== Sys2Proof/Machine/Operands.lean ====
section
/-! DEFINITION. The operand forms: what each instruction computes its operands, addresses and data from (30_encoding.md rule
R68, and the rule each definition cites). The only memory operand form is the implicit base `I`. -/

namespace Sys2Proof.Machine

/-- A 12-bit literal zero-extended to 16 bits (R68). -/
def zext12 (nnn : BitVec 12) : Word := nnn.setWidth 16

/-- An 8-bit value zero-extended to 16 bits. -/
def zext8 (b : Byte) : Word := b.setWidth 16

/-- A 4-bit value zero-extended to 8 bits (R135). -/
def zext4 (k : BitVec 4) : Byte := k.setWidth 8

/-- The low nibble of a register value: a key index (R133) or a font digit (R122); the high nibble is ignored. -/
def lowNibble (b : Byte) : BitVec 4 := b.extractLsb' 0 4

/-- Whether the key a register value names is held (R133). -/
def State.keyHeld (s : State) (x : Reg) : Bool := s.keys.getLsbD (lowNibble (s.reg x)).toNat

/-- The target of JP V0 (R93): the unmasked 16-bit sum. -/
def State.offsetTarget (s : State) (nnn : BitVec 12) : Word := zext12 nnn + zext8 (s.reg V0)

/-- The address of the glyph of a register value's low nibble (R122), `FONT_BASE + 5 * digit`. -/
def glyphAddress (c : Config) (b : Byte) : Word :=
  BitVec.ofNat 16 (c.fontBase + glyphBytes * (lowNibble b).toNat)

/-- The hundreds, tens and ones digits of a value, a byte each, most significant first (R123). -/
def bcdDigits (b : Byte) : List Byte :=
  [BitVec.ofNat 8 (b.toNat / 100), BitVec.ofNat 8 (b.toNat / 10 % 10), BitVec.ofNat 8 (b.toNat % 10)]

/-- The registers `V[0]` to `V[x]`, in ascending order (R124). -/
def State.regsUpTo (s : State) (x : Reg) : List Byte := s.v.toList.take (x.toNat + 1)

/-- The register file with `V[0]` to `V[x]` taken from the bytes of a block read, the others kept (R125). -/
def loadBlock (v : Vector Byte 16) (x : Reg) (bs : List Byte) : Vector Byte 16 :=
  Vector.ofFn fun k : Fin 16 => if k.val ≤ x.toNat then bs.getD k.val 0 else v[k]

/-- The rows a DRW draws (R142): `N + SPRITE_ROW_BIAS`. -/
def spriteRows (c : Config) (n : BitVec 4) : Nat := n.toNat + c.spriteRowBias

/-- Column `x0 + c` with wraparound (R142). -/
def wrapX (n : Nat) : Fin 64 := Fin.ofNat 64 n

/-- Row `y0 + r` with wraparound (R142). -/
def wrapY (n : Nat) : Fin 32 := Fin.ofNat 32 n

end Sys2Proof.Machine
end

