-- ==== Sys2Proof/Machine/Flags.lean ====
section
/-! DEFINITION. The flag computations (10_state.md rule R13): every value that an instruction reports in `VF`, computed from
the operand values at the start, and the order in which result and flag are written (40_step_cycle.md rule R87). -/

namespace Sys2Proof.Machine

/-- A flag as `VF` holds it: 1 or 0 (R87: 0 when the outcome is negative). -/
def flagByte (b : Bool) : Byte := if b then 1 else 0

/-- Carry of an 8-bit addition (R106): the unsigned sum exceeds 255. -/
def carryOut (a b : Byte) : Bool := decide (255 < a.toNat + b.toNat)

/-- No borrow of a subtraction (R107, R109): minuend ≥ subtrahend. -/
def noBorrow (minuend subtrahend : Byte) : Bool := decide (subtrahend.toNat ≤ minuend.toNat)

/-- The bit SHR shifts out (R108): bit 0 of the operand. -/
def shiftedOutLow (a : Byte) : Bool := a.getLsbD 0

/-- The bit SHL shifts out (R110): bit 7 of the operand. -/
def shiftedOutHigh (a : Byte) : Bool := a.getLsbD 7

/-- Result to `V[x]`, then the flag to `VF` (R87): with `x` = 0xF the flag is what stays. -/
def State.setResultAndFlag (s : State) (x : Reg) (result : Byte) (flag : Bool) : State :=
  (s.setReg x result).setReg VF (flagByte flag)

end Sys2Proof.Machine
end

