-- ==== Sys2Proof/Machine/Alu.lean ====
section
/-! DEFINITION. Register and arithmetic-logic instructions (42_alu.md), all of the sequential class. Operands are read from
the state at the start (R88) and a flag is written last (R87). -/

namespace Sys2Proof.Machine

/-- LD Vx, byte (R100). -/
def execLdByte (x : Reg) (nn : Byte) (s : State) : Host.Outcome State Fault Refusal :=
  .next (s.setReg x nn).advance

/-- ADD Vx, byte (R101): the carry goes to `VF` only where `ADD_IMM_WRITES_VF` is set. -/
def execAddByte (x : Reg) (nn : Byte) (s : State) : Host.Outcome State Fault Refusal :=
  .next (if s.cfg.addImmWritesVf then (s.setResultAndFlag x (s.reg x + nn) (carryOut (s.reg x) nn)).advance
    else (s.setReg x (s.reg x + nn)).advance)

/-- LD Vx, Vy (R102). -/
def execLdReg (x y : Reg) (s : State) : Host.Outcome State Fault Refusal :=
  .next (s.setReg x (s.reg y)).advance

/-- OR Vx, Vy (R103): `VF` is no flag here. -/
def execOrReg (x y : Reg) (s : State) : Host.Outcome State Fault Refusal :=
  .next (s.setReg x (s.reg x ||| s.reg y)).advance

/-- AND Vx, Vy (R104). -/
def execAndReg (x y : Reg) (s : State) : Host.Outcome State Fault Refusal :=
  .next (s.setReg x (s.reg x &&& s.reg y)).advance

/-- XOR Vx, Vy (R105). -/
def execXorReg (x y : Reg) (s : State) : Host.Outcome State Fault Refusal :=
  .next (s.setReg x (s.reg x ^^^ s.reg y)).advance

/-- ADD Vx, Vy (R106). -/
def execAddReg (x y : Reg) (s : State) : Host.Outcome State Fault Refusal :=
  .next (s.setResultAndFlag x (s.reg x + s.reg y) (carryOut (s.reg x) (s.reg y))).advance

/-- SUB Vx, Vy (R107): minuend `V[x]`. -/
def execSub (x y : Reg) (s : State) : Host.Outcome State Fault Refusal :=
  .next (s.setResultAndFlag x (s.reg x - s.reg y) (noBorrow (s.reg x) (s.reg y))).advance

/-- SHR Vx (R108): `V[x]` shifted in place. -/
def execShr (x : Reg) (s : State) : Host.Outcome State Fault Refusal :=
  .next (s.setResultAndFlag x (s.reg x >>> 1) (shiftedOutLow (s.reg x))).advance

/-- SUBN Vx, Vy (R109): minuend `V[y]`. -/
def execSubn (x y : Reg) (s : State) : Host.Outcome State Fault Refusal :=
  .next (s.setResultAndFlag x (s.reg y - s.reg x) (noBorrow (s.reg y) (s.reg x))).advance

/-- SHL Vx (R110): `V[x]` shifted in place. -/
def execShl (x : Reg) (s : State) : Host.Outcome State Fault Refusal :=
  .next (s.setResultAndFlag x (s.reg x <<< 1) (shiftedOutHigh (s.reg x))).advance

/-- The entropy byte of the STEP under way, or the fault when the source supplied none (R111, R174). -/
def drawByte (s : State) : Except Raise Byte :=
  match s.rnd with
  | some b => .ok b
  | none => .error ⟨.entropyUnavailable, none⟩

/-- RND Vx, byte (R111): the drawn byte AND the literal. -/
def execRnd (x : Reg) (nn : Byte) (s : State) : Host.Outcome State Fault Refusal :=
  .next (s.orRaise (drawByte s) fun b => (s.setReg x (b &&& nn)).advance)

end Sys2Proof.Machine
end

