-- ==== Sys2Proof/Machine/Display.lean ====
section
/-! DEFINITION. The framebuffer and the display instructions (45_display.md). -/

namespace Sys2Proof.Machine

/-- A framebuffer in the middle of a draw, and whether a set pixel has been unset so far. -/
structure Blit where
  fb : Framebuffer
  collision : Bool
deriving DecidableEq, Repr

/-- One sprite bit at a pixel (R142): a set bit flips the pixel and collides with a set one; a clear bit does nothing. -/
def Blit.bit (t : Blit) (b : Bool) (px : Fin 64) (py : Fin 32) : Blit :=
  if b then ⟨t.fb.flip px py, t.collision || t.fb.pixel px py⟩ else t

/-- One row of a sprite (R142, R143): bit 7 at column `x0`, bit 0 at column `x0 + 7`. -/
def Blit.row (t : Blit) (b : Byte) (x0 : Nat) (py : Fin 32) : Blit :=
  (List.range 8).foldl (fun t c => t.bit (b.getLsbD (7 - c)) (wrapX (x0 + c)) py) t

/-- The rows of a sprite, the first byte the top row (R143), from row `y0` downward. -/
def Blit.rows (t : Blit) : List Byte → Nat → Nat → Blit
  | [], _, _ => t
  | b :: bs, x0, y0 => (t.row b x0 (wrapY y0)).rows bs x0 (y0 + 1)

/-- The whole sprite of bytes `bs` at the coordinates `(x, y)` taken modulo 64 and 32 (R142). -/
def blit (fb : Framebuffer) (bs : List Byte) (x y : Byte) : Blit :=
  (Blit.mk fb false).rows bs (x.toNat % 64) (y.toNat % 32)

/-- CLS (R141). -/
def execCls (s : State) : Host.Outcome State Fault Refusal :=
  .next ({ s with fb := Framebuffer.clear, dirty := true } : State).signalRedraw.advance

/-- DRW Vx, Vy, nibble (R142): the coordinates are read before `VF` is written (R87). -/
def execDrw (x y : Reg) (n : BitVec 4) (s : State) : Host.Outcome State Fault Refusal :=
  .next (s.orRaise (memRead s.cfg s.mem s.i.toNat (spriteRows s.cfg n)) fun bs =>
    let t := blit s.fb bs (s.reg x) (s.reg y)
    (({ s with fb := t.fb, dirty := true } : State).setReg VF (flagByte t.collision)).signalRedraw.advance)

end Sys2Proof.Machine
end

