-- ==== Sys2Proof/Machine/IndexMemory.lean ====
section
/-! DEFINITION. Index register and memory instructions (43_index_memory.md). `I` is the implicit base; the transfers leave it
unchanged, and check the whole range before they write anything. -/

namespace Sys2Proof.Machine

/-- LD I, addr (R120). -/
def execLdI (nnn : BitVec 12) (s : State) : Host.Outcome State Fault Refusal :=
  .next ({ s with i := zext12 nnn } : State).advance

/-- ADD I, Vx (R121): modulo 65536, no flag, no range check. -/
def execAddI (x : Reg) (s : State) : Host.Outcome State Fault Refusal :=
  .next ({ s with i := s.i + zext8 (s.reg x) } : State).advance

/-- LD F, Vx (R122). -/
def execLdF (x : Reg) (s : State) : Host.Outcome State Fault Refusal :=
  .next ({ s with i := glyphAddress s.cfg (s.reg x) } : State).advance

/-- A store of bytes at `I`, then the advance (R123, R124): the shared form of the two storing instructions. -/
def State.storeAtI (s : State) (bs : List Byte) : State :=
  s.orRaise (memWrite s.cfg s.mem s.i.toNat bs) fun m => ({ s with mem := m } : State).advance

/-- LD B, Vx (R123). -/
def execLdB (x : Reg) (s : State) : Host.Outcome State Fault Refusal :=
  .next (s.storeAtI (bcdDigits (s.reg x)))

/-- LD [I], Vx (R124). -/
def execStoreRegs (x : Reg) (s : State) : Host.Outcome State Fault Refusal :=
  .next (s.storeAtI (s.regsUpTo x))

/-- LD Vx, [I] (R125). -/
def execLoadRegs (x : Reg) (s : State) : Host.Outcome State Fault Refusal :=
  .next (s.orRaise (memRead s.cfg s.mem s.i.toNat (x.toNat + 1)) fun bs =>
    ({ s with v := loadBlock s.v x bs } : State).advance)

end Sys2Proof.Machine
end

