-- ==== Sys2Proof/Machine/TimersKeys.lean ====
section
/-! DEFINITION. Timer and keypad instructions (44_timers_keys.md). -/

namespace Sys2Proof.Machine

/-- LD Vx, DT (R130). -/
def execLdVxDt (x : Reg) (s : State) : Host.Outcome State Fault Refusal :=
  .next (s.setReg x s.dt).advance

/-- LD DT, Vx (R131). -/
def execLdDtVx (x : Reg) (s : State) : Host.Outcome State Fault Refusal :=
  .next ({ s with dt := s.reg x } : State).advance

/-- LD ST, Vx (R132): never a `beep`. -/
def execLdStVx (x : Reg) (s : State) : Host.Outcome State Fault Refusal :=
  .next ({ s with st := s.reg x } : State).advance

/-- SKP Vx (R133). -/
def execSkp (x : Reg) (s : State) : Host.Outcome State Fault Refusal :=
  .next (s.skipIf (s.keyHeld x))

/-- SKNP Vx (R134). -/
def execSknp (x : Reg) (s : State) : Host.Outcome State Fault Refusal :=
  .next (s.skipIf (!s.keyHeld x))

/-- LD Vx, K (R135): completes when a key-down was latched during the wait; otherwise begins or continues the wait, with
`PC` unchanged and the `await` signal. -/
def execLdVxK (x : Reg) (s : State) : Host.Outcome State Fault Refusal :=
  .next (if s.wait && s.klValid then
      ({ s.setReg x (zext4 s.klKey) with klValid := false, wait := false } : State).advance
    else ({ s with wait := true } : State).signalAwait)

end Sys2Proof.Machine
end

