-- ==== Sys2Proof/Machine/Events.lean ====
section
/-! DEFINITION. The events other than STEP (50_interfaces.md rule R150). Each returns its outputs in `out`, replacing those of
the event before; none consults `FAULT` (60_exceptions.md rule R190). -/

namespace Sys2Proof.Machine

/-- No outputs yet: how every event begins (`signals <- {}`, R80, R183). -/
def State.clearOut (s : State) : State := { s with out := {} }

/-- RESET (70_reset_and_hazards.md rule R200): all state of the core takes its reset value under the machine's configuration
(R26). The configuration, what the host has pending and the count of free draws are not the core's and stay. -/
def State.coreReset (s : State) : State :=
  { State.resetOf s.cfg with rnd := s.rnd, pending := s.pending, draws := s.draws }

/-- LOAD(image) (R201, R202): an oversize image is rejected and changes no state; otherwise RESET, then the verbatim copy to
0x200 and upward. -/
def State.loadImage (s : State) (image : List Byte) : State :=
  if imageFits image then
    { s.coreReset with mem := s.coreReset.mem.writeBytes s.cfg progBase image, out := { load := some .ok } }
  else { s with out := { load := some .oversizeProgram } }

/-- A timer decrements toward zero and never below (R183). -/
def countDown (b : Byte) : Byte := if b = 0 then 0 else b - 1

/-- TICK (R183): both timers count down; `beep` exactly when `ST` goes from 1 to 0 (R184). -/
def State.tick (s : State) : State :=
  { s with
    dt := countDown s.dt
    st := countDown s.st
    out := { signals := { beep := s.st == 1 } } }

/-- `KEYS` with one bit written (R185). -/
def setKeyBit (keys : BitVec 16) (k : BitVec 4) (held : Bool) : BitVec 16 :=
  if held then keys ||| BitVec.twoPow 16 k.toNat else keys &&& ~~~ BitVec.twoPow 16 k.toNat

/-- Whether a report is the key-down transition that the latch takes (R186): a press of a key not held, during a wait, with
the latch empty. -/
def State.latches (s : State) (k : BitVec 4) (pressed : Bool) : Bool :=
  pressed && !s.keys.getLsbD k.toNat && s.wait && !s.klValid

/-- SET_KEY(index, pressed) (R185). -/
def State.setKey (s : State) (k : BitVec 4) (pressed : Bool) : State :=
  { s with
    keys := setKeyBit s.keys k pressed
    klValid := s.klValid || s.latches k pressed
    klKey := if s.latches k pressed then k else s.klKey
    out := {} }

/-- READ_VIDEO (R155): the pixels and the flag are returned, and the flag is cleared. -/
def State.readVideo (s : State) : State :=
  { s with dirty := false, out := { video := some (s.fb, s.dirty) } }

end Sys2Proof.Machine
end

