-- ==== Sys2Proof/Machine/Cycle.lean ====
section
/-! DEFINITION. The STEP event (40_step_cycle.md rule R80), and which event comes next (log entries 2 and 3). -/

namespace Sys2Proof.Machine

/-- The start of a STEP: the entropy input is presented and no signal has been returned yet (R80, R153). -/
def State.beginStep (s : State) (rnd : Option Byte) : State := { s with rnd := rnd, out := {} }

/-- Decode and execute the fetched word (R80); an unrecognized word is a signalled no-operation that leaves `PC` (R83). -/
def execWord (w : Word) (s : State) : Host.Outcome State Fault Refusal :=
  match decode w with
  | .ok i => exec i s
  | .error _ => .next s.signalUnrecognized

/-- The STEP event (R80): inert while `FAULT` is set (R85); otherwise fetch, decode, execute, with a fetch fault taken first
(R180). -/
def stepEvent (rnd : Option Byte) (s : State) : Host.Outcome State Fault Refusal :=
  let s := s.beginStep rnd
  if s.fault.isSome then .next s
  else
    match fetch s with
    | .ok w => execWord w s
    | .error e => .next (s.raise e)

/-- The next event and the state in which it is performed: the first pending one; where none is pending the host issues a
STEP whose entropy input is a fresh free value. -/
def State.nextEvent (s : State) : Event × State :=
  match s.pending with
  | [] => (.step (Config.entropy s.draws), { s with draws := s.draws + 1 })
  | e :: rest => (e, { s with pending := rest })

/-- One event of R150, atomically (R151). -/
def performEvent (e : Event) (s : State) : Host.Outcome State Fault Refusal :=
  match e with
  | .reset => .next s.coreReset
  | .load image => .next (s.loadImage image)
  | .step rnd => stepEvent rnd s
  | .tick => .next s.tick
  | .setKey k pressed => .next (s.setKey k pressed)
  | .readVideo => .next s.readVideo

/-- Whether an event is a STEP. -/
def Event.isStep : Event → Bool
  | .step _ => true
  | .reset => false
  | .load _ => false
  | .tick => false
  | .setKey _ _ => false
  | .readVideo => false

/-- Where the next STEP fetches: `PC`, or the start of the program area where a fetch at `PC` would fault (log entry 9). -/
def State.fetchPc (s : State) : Word := if s.pc.toNat + 2 ≤ memSize then s.pc else BitVec.ofNat 16 progBase

/-- The state whose very next step fetches and runs the given bytes: the bytes stand where the STEP fetches, no event comes
before the STEP, and no fault keeps it from fetching. -/
def State.withFetchBytes (s : State) (bs : List Byte) : State :=
  { s with
    mem := s.mem.writeBytes s.cfg s.fetchPc.toNat bs
    pc := s.fetchPc
    fault := none
    pending := s.pending.dropWhile fun e => !e.isStep }

end Sys2Proof.Machine
end

