-- ==== Sys2Proof/Machine/Step.lean ====
section
/-! DEFINITION. One step of the machine: the next event of the host, performed atomically (50_interfaces.md rule R150, rule
R151). In a state with nothing pending that is one STEP (40_step_cycle.md rule R80). -/

namespace Sys2Proof.Machine

/-- One step: the next event, performed. -/
def step (s : State) : Host.Outcome State Fault Refusal :=
  performEvent s.nextEvent.1 s.nextEvent.2

/-- `s` with an instruction word, numbered as spec/opcode_table.json numbers it, stored where `step` fetches next (log entry
9). -/
def State.withFetchWord (s : State) (nbits w : Nat) : State := s.withFetchBytes (tableWordBytes nbits w)

end Sys2Proof.Machine
end

