-- ==== Sys2Proof/Safety.lean ====
section
/-! DEFINITION. The terms claims are stated in: runs, what an instruction may touch (as the spec's tables say, independently of
the meanings), the sprite as a mask, the invariants of 10_state.md rule R27, and what counts as a safe run. -/

namespace Sys2Proof

open Sys2Proof.Machine

/-! ### What an instruction names, writes and returns, from the spec's tables -/

/-- The instructions that write `VF` as a flag (R13), and ADD Vx, byte where the configuration says so (R101). -/
def Instr.writesFlag (c : Config) : Instr → Bool
  | .addReg _ _ | .sub _ _ | .subn _ _ | .shr _ | .shl _ | .drw _ _ _ => true
  | .addByte _ _ => c.addImmWritesVf
  | .cls | .ret | .jp _ | .call _ | .seByte _ _ | .sneByte _ _ | .seReg _ _ | .ldByte _ _ => false
  | .ldReg _ _ | .orReg _ _ | .andReg _ _ | .xorReg _ _ | .sneReg _ _ | .ldI _ | .jpV0 _ | .rnd _ _ => false
  | .skp _ | .sknp _ | .ldVxDt _ | .ldVxK _ | .ldDtVx _ | .ldStVx _ | .addI _ | .ldF _ => false
  | .ldB _ | .storeRegs _ | .loadRegs _ => false

/-- Whether an instruction names register `k` as an ordinary destination (R12, R13): the `X` of the instructions that write
`V[X]`, and the registers up to `X` of LD Vx,[I]. -/
def Instr.names : Instr → Reg → Bool
  | .ldByte x _, k | .addByte x _, k | .ldReg x _, k | .orReg x _, k | .andReg x _, k | .xorReg x _, k => k == x
  | .addReg x _, k | .sub x _, k | .subn x _, k | .shr x, k | .shl x, k => k == x
  | .rnd x _, k | .ldVxDt x, k | .ldVxK x, k => k == x
  | .loadRegs x, k => decide (k.toNat ≤ x.toNat)
  | .cls, _ | .ret, _ | .jp _, _ | .call _, _ | .seByte _ _, _ | .sneByte _ _, _ | .seReg _ _, _ | .sneReg _ _, _ => false
  | .ldI _, _ | .jpV0 _, _ | .drw _ _ _, _ | .skp _, _ | .sknp _, _ | .ldDtVx _, _ | .ldStVx _, _ => false
  | .addI _, _ | .ldF _, _ | .ldB _, _ | .storeRegs _, _ => false

/-- The program counter after an instruction that completes without a fault (R82: sequential, transfer and skip classes;
R135 for LD Vx,K). -/
def Instr.pcAfter (i : Instr) (s : State) : Word :=
  match i with
  | .jp nnn => nnn.setWidth 16
  | .call nnn => nnn.setWidth 16
  | .jpV0 nnn => nnn.setWidth 16 + (s.reg V0).setWidth 16
  | .ret => s.stack.toList.getD (s.sp.val - 1) 0
  | .seByte x nn => if s.reg x = nn then s.pc + 4 else s.pc + 2
  | .sneByte x nn => if s.reg x ≠ nn then s.pc + 4 else s.pc + 2
  | .seReg x y => if s.reg x = s.reg y then s.pc + 4 else s.pc + 2
  | .sneReg x y => if s.reg x ≠ s.reg y then s.pc + 4 else s.pc + 2
  | .skp x => if s.keys.getLsbD ((s.reg x).toNat % 16) then s.pc + 4 else s.pc + 2
  | .sknp x => if s.keys.getLsbD ((s.reg x).toNat % 16) then s.pc + 2 else s.pc + 4
  | .ldVxK _ => if s.wait && s.klValid then s.pc + 2 else s.pc
  | .cls | .ldByte _ _ | .addByte _ _ | .ldReg _ _ | .orReg _ _ | .andReg _ _ | .xorReg _ _ => s.pc + 2
  | .addReg _ _ | .sub _ _ | .shr _ | .subn _ _ | .shl _ | .ldI _ | .rnd _ _ | .drw _ _ _ => s.pc + 2
  | .ldVxDt _ | .ldDtVx _ | .ldStVx _ | .addI _ | .ldF _ | .ldB _ | .storeRegs _ | .loadRegs _ => s.pc + 2

/-- The signals of a STEP whose instruction completes without a fault (R84). -/
def Instr.signals (i : Instr) (s : State) : Signals :=
  match i with
  | .cls | .drw _ _ _ => { redraw := true }
  | .ldVxK _ => if s.wait && s.klValid then {} else { await := true }
  | .ret | .jp _ | .call _ | .seByte _ _ | .sneByte _ _ | .seReg _ _ | .sneReg _ _ | .jpV0 _ | .skp _ | .sknp _ => {}
  | .ldByte _ _ | .addByte _ _ | .ldReg _ _ | .orReg _ _ | .andReg _ _ | .xorReg _ _ | .addReg _ _ | .sub _ _ => {}
  | .shr _ | .subn _ _ | .shl _ | .ldI _ | .rnd _ _ | .ldVxDt _ | .ldDtVx _ | .ldStVx _ | .addI _ | .ldF _ => {}
  | .ldB _ | .storeRegs _ | .loadRegs _ => {}

end Sys2Proof

namespace Sys2Proof.Machine

/-! ### Runs -/

/-- A sequence of events, performed one after the other (R151). -/
def performAll : List Event → State → Host.Outcome State Fault Refusal
  | [], s => .next s
  | e :: es, s =>
    match performEvent e s with
    | .next t => performAll es t
    | .fault r => .fault r
    | .refused r => .refused r

/-- A sequence of instructions, executed one after the other without fetching them. -/
def execAll : List Instr → State → Host.Outcome State Fault Refusal
  | [], s => .next s
  | i :: is, s =>
    match exec i s with
    | .next t => execAll is t
    | .fault r => .fault r
    | .refused r => .refused r

/-- `t` agrees with `s` on all the state of the core (R10); only the model's own inputs and outputs may differ. -/
def State.SameCore (s t : State) : Prop :=
  t = { s with rnd := t.rnd, out := t.out, pending := t.pending, draws := t.draws }

/-- The instruction word at `PC`. -/
def State.word (s : State) : Word := s.mem.wordAt s.cfg s.pc.toNat

/-- A STEP fetches without a fault (R81, R85): no fault is held, and both bytes at `PC` lie in `MEM`. -/
def State.CanFetch (s : State) : Prop := s.fault = none ∧ s.pc.toNat ≤ 4094

/-- An event that leaves the program loaded and the run going: anything but RESET and LOAD. -/
def Event.keepsRun : Event → Bool
  | .reset => false
  | .load _ => false
  | .step _ => true
  | .tick => true
  | .setKey _ _ => true
  | .readVideo => true

/-- An event other than RESET, LOAD and a report of a pressed key. -/
def Event.noPress : Event → Bool
  | .reset => false
  | .load _ => false
  | .step _ => true
  | .tick => true
  | .setKey _ pressed => !pressed
  | .readVideo => true

/-! ### What an instruction leaves -/

/-- `t` is `s` after a sequential instruction whose only result is `b` in `V[x]`: every other register, all of memory and all
other state is as before. -/
def WritesReg (s t : State) (x : Reg) (b : Byte) : Prop :=
  t.reg x = b ∧ (∀ k, k ≠ x → t.reg k = s.reg k) ∧ t = { s with v := t.v, pc := s.pc + 2 }

/-- `t` is `s` after a sequential instruction that writes the result `r` to `V[x]` and then the flag `f` to `VF` (R87):
`V[x]` holds `r` unless it is `VF`; everything else is as before. -/
def WritesRegAndFlag (s t : State) (x : Reg) (r : Nat) (f : Prop) [Decidable f] : Prop :=
  (t.reg VF).toNat = (if f then 1 else 0) ∧ (x ≠ VF → (t.reg x).toNat = r) ∧
    (∀ k, k ≠ x → k ≠ VF → t.reg k = s.reg k) ∧ t = { s with v := t.v, pc := s.pc + 2 }

/-- `t` is `s` after the fault `f` was raised (R178): `FAULT`, no signal, the info value, and nothing else. -/
def Raises (s t : State) (f : Fault) (info : Option Nat) : Prop :=
  t = { s with fault := some f, out := { info := info } }

/-- The bytes of the sprite that a DRW with literal `n` reads at `I`, one for each of its `N + SPRITE_ROW_BIAS` rows (R142). -/
def State.spriteBytes (s : State) (n : BitVec 4) : List Byte :=
  (List.range (n.toNat + s.cfg.spriteRowBias)).map fun r => s.mem.read s.cfg (s.i.toNat + r)

/-- Whether a sprite at `(x0, y0)` has a set bit on a pixel, with wraparound on both axes (R142, R143, R145): bit 7 of each
byte is the leftmost column, the first byte the top row. -/
def spriteCovers (bs : List Byte) (x0 y0 : Nat) (px : Fin 64) (py : Fin 32) : Bool :=
  (List.range bs.length).any fun r => (List.range 8).any fun c =>
    (bs.getD r 0).getLsbD (7 - c) && (x0 + c) % 64 == px.val && (y0 + r) % 32 == py.val

/-! ### Invariants and safe runs -/

/-- What holds in every reachable state of a machine with a configuration the spec allows (R27): the configuration is still one;
memory is in canonical form; a latched key only during a wait; a wait only at an LD Vx,K that can be fetched, with no fault
held; `PC` no higher than an instruction can make it, unless it stands at `RESET_PC`; the valid stack entries no higher than a
CALL can push. `SP <= 16` is part of the type of `SP`. -/
structure State.Inv (s : State) : Prop where
  cfgWf : s.cfg.wf = true
  memWf : s.mem.wf s.cfg = true
  latchInWait : s.klValid = true → s.wait = true
  waitAtKeyWait : s.wait = true → s.CanFetch ∧ ∃ x, decode s.word = .ok (.ldVxK x)
  pcBound : s.pc.toNat ≤ 0x10FE ∨ s.pc = s.cfg.resetPc
  stackBound : ∀ k : Fin 16, k.val < s.sp.val → s.stack[k].toNat ≤ 4096

/-- The run has gone wrong (R178): a fault is held, and no STEP does anything until RESET or LOAD. -/
def State.Faulted (s : State) : Prop := s.fault ≠ none

/-- The run hangs on an unrecognized word (R83, R212). -/
def State.Hung (s : State) : Prop := s.CanFetch ∧ decode s.word = .error .unrecognized

/-- The run has ended in the park idiom (R216): a jump to its own address, with no fault and no wait. -/
def State.Parked (s : State) : Prop :=
  s.CanFetch ∧ s.wait = false ∧ ∃ nnn : BitVec 12, decode s.word = .ok (.jp nnn) ∧ nnn.setWidth 16 = s.pc

/-- A run of events is safe when it ends in a state that is neither faulted nor hung. -/
def SafeRun (es : List Event) (s : State) : Prop :=
  ∃ t, performAll es s = .next t ∧ ¬ t.Faulted ∧ ¬ t.Hung

end Sys2Proof.Machine
end

