-- ==== Sys2Proof/Certificates/Slice0/Obligations.lean ====
section
/-! DEFINITION. The statements for the provers, about the machine and every state of it, so under every configuration: the
parameters of R4 stand in the state, and a statement that needs an allowed one says `s.cfg.wf`. Where a statement rests on a decision
the spec marks as its own, or on a choice of this model, its docstring says so. A frame is written `t = { s with … }`: every
field of the state that is not named there, all of memory among them, is as before. -/

open Sys2Proof Sys2Proof.Machine

/-! ### Encoding -/

/-- Words written out from the table of R63 decode to the instructions they stand for, bits that are not looked at included
(the numbers and R65 are the spec's decisions D1 and D12). -/
def Obligations.WrittenOutWordsDecode : Prop :=
  decode 0x07E0 = .ok .cls ∧ decode 0x00EE = .ok .ret ∧ decode 0x1ABC = .ok (.jp 0xABC) ∧
  decode 0x5127 = .ok (.seReg 1 2) ∧ decode 0x6F12 = .ok (.ldByte 15 0x12) ∧ decode 0x8F17 = .ok (.subn 15 1) ∧
  decode 0x812E = .ok (.shl 1) ∧ decode 0x912F = .ok (.sneReg 1 2) ∧ decode 0xD124 = .ok (.drw 1 2 4) ∧
  decode 0xE2A1 = .ok (.sknp 2) ∧ decode 0xF365 = .ok (.loadRegs 3) ∧ decode 0x0000 = .error .unrecognized ∧
  decodeBytes [0xA3, 0x00, 0xF0] = .ok (.ldI 0x300, [0xF0])

/-- Decoding the bytes of an encoded instruction gives the instruction back, with every operand, whatever bytes follow
(every `Instr` is well formed, R68). -/
def Obligations.DecodeOfEncodeIsTheInstruction : Prop :=
  ∀ (i : Instr) (rest : List Byte), decode (encode i) = .ok i ∧ decodeBytes (encodeBytes i ++ rest) = .ok (i, rest)

/-- Encoding what a word decodes to gives the word back with exactly the bits cleared that R65 says are not looked at
(decision D12; that the encoder writes them 0 is log entry 8). -/
def Obligations.EncodeOfDecodeClearsOnlyUnusedBits : Prop :=
  ∀ (w : Word) (i : Instr), decode w = .ok i → encode i = w &&& i.usedBits

/-- A word is unrecognized exactly when it lies in one of the four sub-decoded families with a selector that R64 does not
list, and no word is rejected for another reason (R66; the selector values are decision D1). -/
def Obligations.UnrecognizedExactlyUndefinedSelectors : Prop :=
  ∀ w : Word, (decode w = .error .unrecognized ↔
      (family w = 0x0 ∧ fieldNN w ∉ ([0xE0, 0xEE] : List Byte)) ∨
      (family w = 0x8 ∧ fieldN w ∈ ([0x8, 0x9, 0xA, 0xB, 0xC, 0xD, 0xF] : List (BitVec 4))) ∨
      (family w = 0xE ∧ fieldNN w ∉ ([0x9E, 0xA1] : List Byte)) ∨
      (family w = 0xF ∧ fieldNN w ∉ ([0x07, 0x0A, 0x15, 0x18, 0x1E, 0x29, 0x33, 0x55, 0x65] : List Byte))) ∧
    decode w ≠ .error .truncated

/-- R67: a word belongs to a row of the opcode table exactly when it decodes to an instruction of that row. So a word belongs
to at most one row, and one that belongs to none is unrecognized. -/
def Obligations.DecodeAgreesWithTheOpcodeTable : Prop :=
  ∀ (w : Word) (j : Instr), j.row.matches w = true ↔ ∃ i, decode w = .ok i ∧ i.row = j.row

/-! ### The step cycle -/

/-- R80: when the word at `PC` decodes to `i` and no fault is held, a STEP is `exec i` in the state in which the entropy input
has been presented and no signal has been returned; and `step` is that STEP when a STEP is the next event, which it is, with
a free entropy input, where no event is pending (log entries 2 and 3). -/
def Obligations.StepRunsTheDecodedInstruction : Prop :=
  ∀ (s : State) (i : Instr), s.CanFetch → decode s.word = .ok i →
    (∀ rnd, performEvent (.step rnd) s = exec i { s with rnd := rnd, out := {} }) ∧
    (∀ rnd es, s.pending = .step rnd :: es → step s = exec i { s with rnd := rnd, out := {}, pending := es }) ∧
    (s.pending = [] → step s = exec i { s with rnd := Config.entropy s.draws, out := {}, draws := s.draws + 1 })

/-- R151: running the machine over pending events performs exactly those events, in their order (that pending events stand in
the state is log entry 2). -/
def Obligations.StepsPerformThePendingEvents : Prop :=
  ∀ (es : List Event) (s : State),
    Host.Core.run core es.length { s with pending := es } = performAll es { s with pending := [] }

/-- R83: a STEP on an unrecognized word returns the `unrecognized` signal and changes no state; and since only RESET and LOAD
change that, whatever STEP, TICK, SET_KEY and READ_VIDEO events come before, every later STEP does the same: the program never
makes progress, while TICK, SET_KEY and READ_VIDEO act exactly as they would with any other memory at `PC`. -/
def Obligations.UnrecognizedWordHangs : Prop :=
  ∀ (s : State) (es : List Event) (rnd : Option Byte), s.Hung → (∀ e ∈ es, e.keepsRun = true) →
    ∃ t u, performAll es s = .next t ∧
      t = { s with dt := t.dt, st := t.st, keys := t.keys, dirty := t.dirty, klValid := t.klValid, klKey := t.klKey,
                   rnd := t.rnd, out := t.out } ∧
      performEvent (.step rnd) t = .next u ∧ t.SameCore u ∧ u.out = { signals := { unrecognized := true } } ∧
      ∀ (e : Event) (v : State) (m : Memory), (e = .tick ∨ (∃ k p, e = .setKey k p) ∨ e = .readVideo) →
        performEvent e t = .next v → performEvent e { t with mem := m } = .next { v with mem := m }

/-- R85 (decision D10): while a fault is held a STEP changes no state and returns no signal; and no sequence of events without
RESET and LOAD changes the memory, the registers, `I`, `PC`, the stack, the pixels, `WAIT` or the fault. -/
def Obligations.FaultedCoreIsInert : Prop :=
  ∀ (s : State), s.Faulted →
    (∀ rnd, performEvent (.step rnd) s = .next { s with rnd := rnd, out := {} }) ∧
    ∀ es : List Event, (∀ e ∈ es, e.keepsRun = true) → ∃ t, performAll es s = .next t ∧
      t = { s with dt := t.dt, st := t.st, keys := t.keys, dirty := t.dirty, klValid := t.klValid, klKey := t.klKey,
                   rnd := t.rnd, out := t.out }

/-- R81, R175 (decision D9): a fetch with `PC > 4094` raises AddressOutOfRange with the first address above 4095 and changes
nothing else. -/
def Obligations.FetchAboveMemoryFaults : Prop :=
  ∀ (s : State) (rnd : Option Byte), s.fault = none → 4094 < s.pc.toNat →
    ∃ t, performEvent (.step rnd) s = .next t ∧
      Raises { s with rnd := rnd } t .addressOutOfRange (some (max s.pc.toNat 4096))

/-- R86 (decision D10): an instruction that raises a fault changes `FAULT` and nothing else, and returns no signal. -/
def Obligations.FaultsArePrecise : Prop :=
  ∀ (i : Instr) (s t : State), exec i s = .next t → t.fault ≠ s.fault →
    ∃ f info, Raises s t f info

/-- R170: the machine has no other abnormal outcome: every instruction and every step answers a next state (faults are entered
as next states, log entry 6), of a machine with the same configuration (R4, R25; that the state carries it is log entry 1). -/
def Obligations.EveryStepAnswersANextState : Prop :=
  (∀ (i : Instr) (s : State), ∃ t, exec i s = .next t ∧ t.cfg = s.cfg) ∧ ∀ s : State, ∃ t, step s = .next t ∧ t.cfg = s.cfg

/-- R82: the program counter of every instruction is the one its class gives; a faulting instruction and an unrecognized word
leave it unchanged, as does LD Vx,K while it waits. -/
def Obligations.ProgramCounterFollowsItsClass : Prop :=
  ∀ (s t : State), s.fault = none →
    (∀ i : Instr, exec i s = .next t → t.pc = if t.fault = none then i.pcAfter s else s.pc) ∧
    (∀ w : Word, decode w = .error .unrecognized → execWord w s = .next t → t.pc = s.pc)

/-- R84 (which events return which signal is decision D15): a STEP returns `redraw` exactly when it executes CLS or DRW,
`await` exactly when LD Vx,K does not complete, and nothing when it faults. -/
def Obligations.SignalsOfAnInstruction : Prop :=
  ∀ (i : Instr) (s t : State), s.fault = none → s.out = {} → exec i s = .next t →
    t.out.signals = if t.fault = none then i.signals s else {}

/-! ### What an instruction may change -/

/-- R13: a register changes only if the instruction names it as its destination, or it is `VF` and the instruction is one of
those that report a flag, ADD Vx, byte among them only where the configuration says so (R101, decision D5). -/
def Obligations.RegistersChangeOnlyWhereNamed : Prop :=
  ∀ (i : Instr) (s t : State) (k : Reg), exec i s = .next t → i.names k = false → (k = VF → i.writesFlag s.cfg = false) →
    t.reg k = s.reg k

/-- R28, R48: `MEM`, `I`, the timers, the stack and the pixels are written by exactly the instructions the spec lists, and the
keymask by none (R19). The clauses on `DIRTY`, `WAIT`, `KL_VALID` and `KL_KEY` follow R21 to R23, R135 and R144 and rest on the
spec's decisions D14 and D16; that CLS exists is D13, that the block transfers leave `I` is D7, that RET leaves `STACK` is D25,
and the timer loads are D29 (log entry 10). -/
def Obligations.SpecialStateChangesOnlyByItsInstructions : Prop :=
  ∀ (i : Instr) (s t : State), exec i s = .next t →
    (t.mem ≠ s.mem → (∃ x, i = .ldB x) ∨ ∃ x, i = .storeRegs x) ∧
    (t.i ≠ s.i → (∃ nnn, i = .ldI nnn) ∨ (∃ x, i = .addI x) ∨ ∃ x, i = .ldF x) ∧
    (t.dt ≠ s.dt → ∃ x, i = .ldDtVx x) ∧ (t.st ≠ s.st → ∃ x, i = .ldStVx x) ∧
    (t.stack ≠ s.stack → ∃ nnn, i = .call nnn) ∧ (t.sp ≠ s.sp → (∃ nnn, i = .call nnn) ∨ i = .ret) ∧
    (t.fb ≠ s.fb ∨ t.dirty ≠ s.dirty → i = .cls ∨ ∃ x y n, i = .drw x y n) ∧
    (t.wait ≠ s.wait ∨ t.klValid ≠ s.klValid → ∃ x, i = .ldVxK x) ∧
    t.keys = s.keys ∧ t.klKey = s.klKey

/-- R153, R174: RND alone depends on the entropy input; every other instruction does the same whatever it is. -/
def Obligations.OnlyRndReadsTheEntropyInput : Prop :=
  ∀ (i : Instr) (s t : State) (r : Option Byte), (∀ x nn, i ≠ .rnd x nn) → exec i s = .next t →
    exec i { s with rnd := r } = .next { t with rnd := r }

/-- R140: the framebuffer changes in exactly four ways: RESET (and the RESET of an accepted LOAD) clears it and the flag, a
STEP on CLS clears it and sets the flag, a STEP on DRW flips pixels and sets the flag, READ_VIDEO clears the flag alone (under every
configuration the spec allows, whatever the row bias). -/
def Obligations.FramebufferHasFourTransitions : Prop :=
  ∀ (e : Event) (s t : State), s.cfg.wf = true → performEvent e s = .next t →
    (t.fb = s.fb ∧ t.dirty = s.dirty) ∨
    ((e = .reset ∨ ∃ image, e = .load image) ∧ (∀ x y, t.fb.pixel x y = false) ∧ t.dirty = false) ∨
    (∃ rnd, e = .step rnd ∧ s.CanFetch ∧ decode s.word = .ok .cls ∧ (∀ x y, t.fb.pixel x y = false) ∧ t.dirty = true) ∨
    (∃ rnd vx vy n, e = .step rnd ∧ s.CanFetch ∧ decode s.word = .ok (.drw vx vy n) ∧ t.dirty = true ∧
      ∀ x y, t.fb.pixel x y = (s.fb.pixel x y ^^
        spriteCovers (s.spriteBytes n) ((s.reg vx).toNat % 64) ((s.reg vy).toNat % 32) x y)) ∨
    (e = .readVideo ∧ t.fb = s.fb ∧ t.dirty = false)

/-! ### Control flow -/

/-- R94: SE Vx, byte bypasses exactly the following two-byte instruction when `V[X] = NN`, and goes on to it otherwise;
nothing else changes. -/
def Obligations.SkipIfEqualByte : Prop :=
  ∀ (x : Reg) (nn : Byte) (s : State),
    exec (.seByte x nn) s = .next { s with pc := if s.reg x = nn then s.pc + 4 else s.pc + 2 }

/-- R95, R96, R97 (that these comparisons exist and their sense are from general knowledge, 93_implementation_defined.md G2,
G11): the other register-compare skips. -/
def Obligations.OtherRegisterCompareSkips : Prop :=
  ∀ (x y : Reg) (nn : Byte) (s : State),
    exec (.sneByte x nn) s = .next { s with pc := if s.reg x ≠ nn then s.pc + 4 else s.pc + 2 } ∧
    exec (.seReg x y) s = .next { s with pc := if s.reg x = s.reg y then s.pc + 4 else s.pc + 2 } ∧
    exec (.sneReg x y) s = .next { s with pc := if s.reg x ≠ s.reg y then s.pc + 4 else s.pc + 2 }

/-- R133, R134: the key skips test the bit of `KEYS` that the low nibble of `V[X]` names; nothing but `PC` changes. -/
def Obligations.KeySkipsTestTheNamedKey : Prop :=
  ∀ (x : Reg) (s : State),
    exec (.skp x) s =
      .next { s with pc := if s.keys.getLsbD ((s.reg x).toNat % 16) = true then s.pc + 4 else s.pc + 2 } ∧
    exec (.sknp x) s =
      .next { s with pc := if s.keys.getLsbD ((s.reg x).toNat % 16) = false then s.pc + 4 else s.pc + 2 }

/-- R91, R93 (the unmodified target and JP V0 are from general knowledge, decision D19): the jumps set `PC` to the 12-bit
target, and to the target plus `V0` without a mask; nothing else changes. -/
def Obligations.JumpsSetTheProgramCounter : Prop :=
  ∀ (nnn : BitVec 12) (s : State),
    exec (.jp nnn) s = .next { s with pc := BitVec.ofNat 16 nnn.toNat } ∧
    exec (.jpV0 nnn) s = .next { s with pc := BitVec.ofNat 16 (nnn.toNat + (s.reg 0).toNat) }

/-- R92: CALL pushes the address of the following instruction, increments `SP` and jumps, changing nothing else; with
`SP = 16` it raises StackOverflow and changes nothing. -/
def Obligations.CallPushesOrOverflows : Prop :=
  ∀ (nnn : BitVec 12) (s : State),
    (∀ h : s.sp.val < 16, ∃ t, exec (.call nnn) s = .next t ∧
      t.stack[s.sp.val] = s.pc + 2 ∧ (∀ k : Fin 16, k.val ≠ s.sp.val → t.stack[k] = s.stack[k]) ∧
      t.sp.val = s.sp.val + 1 ∧ t = { s with stack := t.stack, sp := t.sp, pc := BitVec.ofNat 16 nnn.toNat }) ∧
    (s.sp.val = 16 → ∃ t, exec (.call nnn) s = .next t ∧ Raises s t .stackOverflow none)

/-- R90: RET decrements `SP` and sets `PC` to the entry it then indexes, which stays in the stack, changing nothing else; with
`SP = 0` it raises StackUnderflow and changes nothing. -/
def Obligations.ReturnPopsOrUnderflows : Prop :=
  ∀ s : State,
    (∀ h : 0 < s.sp.val, ∃ t, exec .ret s = .next t ∧ t.sp.val = s.sp.val - 1 ∧
      t = { s with sp := t.sp, pc := s.stack[s.sp.val - 1] }) ∧
    (s.sp.val = 0 → ∃ t, exec .ret s = .next t ∧ Raises s t .stackUnderflow none)

/-- R92: calls nested to any depth the stack has room for, then as many returns, restore `SP` and come back to the
instruction after the first call, with every entry below the first call's and all other state unchanged. -/
def Obligations.NestedCallsThenReturnsComeBack : Prop :=
  ∀ (targets : List (BitVec 12)) (s : State), targets ≠ [] → s.sp.val + targets.length ≤ 16 →
    ∃ t, execAll (targets.map Instr.call ++ List.replicate targets.length Instr.ret) s = .next t ∧
      t = { s with stack := t.stack, pc := s.pc + 2 } ∧ ∀ k : Fin 16, k.val < s.sp.val → t.stack[k] = s.stack[k]

/-! ### Registers and arithmetic -/

/-- R100, R102 to R105 (from general knowledge, 93_implementation_defined.md G2; that no flag is written is decision D8): the
loads and the logical operations write `V[X]` and advance, and nothing else, `VF` included unless it is `V[X]`. -/
def Obligations.LoadsAndLogicWriteTheirDestination : Prop :=
  ∀ (x y : Reg) (nn : Byte) (s : State),
    (∃ t, exec (.ldByte x nn) s = .next t ∧ WritesReg s t x nn) ∧
    (∃ t, exec (.ldReg x y) s = .next t ∧ WritesReg s t x (s.reg y)) ∧
    (∃ t, exec (.orReg x y) s = .next t ∧ WritesReg s t x (s.reg x ||| s.reg y)) ∧
    (∃ t, exec (.andReg x y) s = .next t ∧ WritesReg s t x (s.reg x &&& s.reg y)) ∧
    (∃ t, exec (.xorReg x y) s = .next t ∧ WritesReg s t x (s.reg x ^^^ s.reg y))

/-- R101: ADD Vx, byte holds the sum modulo 256, and `VF` reports the carry exactly where the configuration sets
`ADD_IMM_WRITES_VF` (that it is a parameter and false by default is decision D5); nothing else but `PC` changes. -/
def Obligations.AddImmediateWrapsWithoutFlag : Prop :=
  ∀ (x : Reg) (nn : Byte) (s : State),
    (s.cfg.addImmWritesVf = false → ∃ t, exec (.addByte x nn) s = .next t ∧
      WritesReg s t x (BitVec.ofNat 8 (((s.reg x).toNat + nn.toNat) % 256))) ∧
    (s.cfg.addImmWritesVf = true → ∃ t, exec (.addByte x nn) s = .next t ∧
      WritesRegAndFlag s t x (((s.reg x).toNat + nn.toNat) % 256) (255 < (s.reg x).toNat + nn.toNat))

/-- R106: ADD Vx, Vy holds the low 8 bits of the sum, and then sets `VF` to 1 iff the unsigned sum exceeds 255. -/
def Obligations.AddReportsCarry : Prop :=
  ∀ (x y : Reg) (s : State), ∃ t, exec (.addReg x y) s = .next t ∧
    WritesRegAndFlag s t x (((s.reg x).toNat + (s.reg y).toNat) % 256) (255 < (s.reg x).toNat + (s.reg y).toNat)

/-- R107: SUB Vx, Vy holds the difference modulo 256, and then sets `VF` to 1 iff the minuend is at least the subtrahend. -/
def Obligations.SubReportsNoBorrow : Prop :=
  ∀ (x y : Reg) (s : State), ∃ t, exec (.sub x y) s = .next t ∧
    WritesRegAndFlag s t x ((((s.reg x).toNat : Int) - (s.reg y).toNat) % 256).toNat ((s.reg y).toNat ≤ (s.reg x).toNat)

/-- R109 (that this instruction exists is decision D30): SUBN Vx, Vy subtracts with the operands exchanged. -/
def Obligations.SubnReportsNoBorrow : Prop :=
  ∀ (x y : Reg) (s : State), ∃ t, exec (.subn x y) s = .next t ∧
    WritesRegAndFlag s t x ((((s.reg y).toNat : Int) - (s.reg x).toNat) % 256).toNat ((s.reg x).toNat ≤ (s.reg y).toNat)

/-- R108, R110 (that the operand is `V[X]` is decision D6): the shifts move `V[X]` by one place with zero fill, and then set
`VF` to the bit shifted out of the operand. -/
def Obligations.ShiftsReportTheBitShiftedOut : Prop :=
  ∀ (x : Reg) (s : State),
    (∃ t, exec (.shr x) s = .next t ∧ WritesRegAndFlag s t x ((s.reg x).toNat / 2) ((s.reg x).toNat % 2 = 1)) ∧
    (∃ t, exec (.shl x) s = .next t ∧ WritesRegAndFlag s t x (2 * (s.reg x).toNat % 256) (128 ≤ (s.reg x).toNat))

/-- R111 (that a missing byte is fatal is decision D11): RND writes the entropy byte AND the literal, whatever the byte is;
without a byte it raises EntropyUnavailable and changes nothing. -/
def Obligations.RandomIsTheMaskedEntropyByte : Prop :=
  ∀ (x : Reg) (nn : Byte) (s : State),
    (∀ b, s.rnd = some b → ∃ t, exec (.rnd x nn) s = .next t ∧ WritesReg s t x (b &&& nn)) ∧
    (s.rnd = none → ∃ t, exec (.rnd x nn) s = .next t ∧ Raises s t .entropyUnavailable none)

/-! ### Index register and memory -/

/-- R120, R121, R122 (LD I is from general knowledge, the wrap and the low nibble are decisions D18 and D17): the instructions
that write `I` write nothing else but `PC`, whatever the sum. -/
def Obligations.IndexRegisterWrites : Prop :=
  ∀ (nnn : BitVec 12) (x : Reg) (s : State),
    exec (.ldI nnn) s = .next { s with i := BitVec.ofNat 16 nnn.toNat, pc := s.pc + 2 } ∧
    exec (.addI x) s =
      .next { s with i := BitVec.ofNat 16 ((s.i.toNat + (s.reg x).toNat) % 65536), pc := s.pc + 2 } ∧
    exec (.ldF x) s =
      .next { s with i := BitVec.ofNat 16 (s.cfg.fontBase + 5 * ((s.reg x).toNat % 16)), pc := s.pc + 2 }

/-- R123 (the range is decision D9): LD B stores the three decimal digits at `I`, `I + 1`, `I + 2`, most significant first; every
other byte, and all other state but `PC`, is unchanged. -/
def Obligations.BcdStoreWritesThreeDigits : Prop :=
  ∀ (x : Reg) (s : State), s.mem.wf s.cfg = true → s.i.toNat ≤ 4093 →
    ∃ t, exec (.ldB x) s = .next t ∧ t = { s with mem := t.mem, pc := s.pc + 2 } ∧
      (t.mem.read t.cfg s.i.toNat).toNat = (s.reg x).toNat / 100 ∧
      (t.mem.read t.cfg (s.i.toNat + 1)).toNat = (s.reg x).toNat / 10 % 10 ∧
      (t.mem.read t.cfg (s.i.toNat + 2)).toNat = (s.reg x).toNat % 10 ∧
      ∀ a, a < s.i.toNat ∨ s.i.toNat + 3 ≤ a → t.mem.read t.cfg a = s.mem.read s.cfg a

/-- R124 (that `I` is unchanged and the range are decisions D7 and D9): LD [I], Vx stores `V[0]` to `V[X]` at `I` upward; every
other byte, and all other state but `PC`, is unchanged. -/
def Obligations.BlockDumpStoresRegisters : Prop :=
  ∀ (x : Reg) (s : State), s.mem.wf s.cfg = true → s.i.toNat + x.toNat ≤ 4095 →
    ∃ t, exec (.storeRegs x) s = .next t ∧ t = { s with mem := t.mem, pc := s.pc + 2 } ∧
      (∀ k : Reg, k.toNat ≤ x.toNat → t.mem.read t.cfg (s.i.toNat + k.toNat) = s.reg k) ∧
      ∀ a, a < s.i.toNat ∨ s.i.toNat + x.toNat < a → t.mem.read t.cfg a = s.mem.read s.cfg a

/-- R125 (that `I` is unchanged and the range are decisions D7 and D9): LD Vx, [I] loads `V[0]` to `V[X]`; the registers above,
and all other state but `PC`, are unchanged. -/
def Obligations.BlockLoadLoadsRegisters : Prop :=
  ∀ (x : Reg) (s : State), s.i.toNat + x.toNat ≤ 4095 →
    ∃ t, exec (.loadRegs x) s = .next t ∧ t = { s with v := t.v, pc := s.pc + 2 } ∧
      (∀ k : Reg, k.toNat ≤ x.toNat → t.reg k = s.mem.read s.cfg (s.i.toNat + k.toNat)) ∧
      ∀ k : Reg, x.toNat < k.toNat → t.reg k = s.reg k

/-- R125: a register dump, then any change of the registers, then a load at the same base and top index gives the registers up
to it back. -/
def Obligations.DumpThenLoadRestoresRegisters : Prop :=
  ∀ (x : Reg) (s : State) (v : Vector Byte 16), s.mem.wf s.cfg = true → s.i.toNat + x.toNat ≤ 4095 →
    ∃ t u, exec (.storeRegs x) s = .next t ∧ exec (.loadRegs x) { t with v := v } = .next u ∧
      ∀ k : Reg, k.toNat ≤ x.toNat → u.reg k = s.reg k

/-- R47 (decision D9): LD B, LD [I], LD Vx,[I] and DRW reaching above address 4095 raise AddressOutOfRange with the first such
address, and change nothing; an address never wraps. -/
def Obligations.OutOfRangeAccessFaults : Prop :=
  ∀ (x y : Reg) (n : BitVec 4) (s : State),
    (4095 < s.i.toNat + 2 →
      ∃ t, exec (.ldB x) s = .next t ∧ Raises s t .addressOutOfRange (some (max s.i.toNat 4096))) ∧
    (4095 < s.i.toNat + x.toNat →
      (∃ t, exec (.storeRegs x) s = .next t ∧ Raises s t .addressOutOfRange (some (max s.i.toNat 4096))) ∧
      ∃ t, exec (.loadRegs x) s = .next t ∧ Raises s t .addressOutOfRange (some (max s.i.toNat 4096))) ∧
    (4096 < s.i.toNat + (n.toNat + s.cfg.spriteRowBias) →
      ∃ t, exec (.drw x y n) s = .next t ∧ Raises s t .addressOutOfRange (some (max s.i.toNat 4096)))

/-- R52: a register dump over the bytes of the next instruction is seen by the very next fetch. -/
def Obligations.StoreIsSeenByTheNextFetch : Prop :=
  ∀ (x j k : Reg) (s : State), s.mem.wf s.cfg = true → s.i.toNat + x.toNat ≤ 4095 →
    k.toNat = j.toNat + 1 → k.toNat ≤ x.toNat → (s.pc + 2).toNat = s.i.toNat + j.toNat →
    ∃ t, exec (.storeRegs x) s = .next t ∧ fetch t = .ok (s.reg j ++ s.reg k)

/-! ### Timers and keys -/

/-- R130, R131, R132 (from general knowledge, decision D29): the timer instructions copy between `V[X]` and the timers; nothing
else changes and no signal is returned. -/
def Obligations.TimerInstructionsCopy : Prop :=
  ∀ (x : Reg) (s : State),
    (∃ t, exec (.ldVxDt x) s = .next t ∧ WritesReg s t x s.dt) ∧
    exec (.ldDtVx x) s = .next { s with dt := s.reg x, pc := s.pc + 2 } ∧
    exec (.ldStVx x) s = .next { s with st := s.reg x, pc := s.pc + 2 }

/-- R135 (decision D14): LD Vx, K completes exactly when a key-down was latched during the wait, and stores its index;
otherwise it begins or continues the wait, with the `await` signal and `PC` unchanged. -/
def Obligations.KeyWaitSuspendsOrCompletes : Prop :=
  ∀ (x : Reg) (s : State),
    (s.wait = true ∧ s.klValid = true → ∃ t, exec (.ldVxK x) s = .next t ∧
      (t.reg x).toNat = s.klKey.toNat ∧ (∀ k, k ≠ x → t.reg k = s.reg k) ∧
      t = { s with v := t.v, klValid := false, wait := false, pc := s.pc + 2 }) ∧
    (¬ (s.wait = true ∧ s.klValid = true) →
      exec (.ldVxK x) s =
        .next { s with wait := true, out := { s.out with signals := { s.out.signals with await := true } } })

/-- R135, R189 (decision D14): from the beginning of a wait, no sequence of STEP, TICK, READ_VIDEO and key-release events ends
it: every STEP in it leaves the registers, `PC`, the memory and the pixels as they are. -/
def Obligations.WaitLastsUntilAKeyDown : Prop :=
  ∀ (s : State) (es : List Event), s.Inv → s.wait = true → s.klValid = false → (∀ e ∈ es, e.noPress = true) →
    ∃ t, performAll es s = .next t ∧
      t = { s with dt := t.dt, st := t.st, keys := t.keys, dirty := t.dirty, rnd := t.rnd, out := t.out }

/-- R135, R186 (decision D14): a key-down reported during a wait completes it at the next STEP, which stores the key's index and
advances; the first key-down is the one that counts. -/
def Obligations.FirstKeyDownEndsTheWait : Prop :=
  ∀ (s : State) (x : Reg) (k k' : BitVec 4) (rnd : Option Byte), s.wait = true → s.klValid = false → s.CanFetch →
    decode s.word = .ok (.ldVxK x) → s.keys.getLsbD k.toNat = false →
    ∃ t, performAll [.setKey k true, .setKey k' true, .step rnd] s = .next t ∧
      (t.reg x).toNat = k.toNat ∧ t.pc = s.pc + 2 ∧ t.wait = false ∧ t.klValid = false ∧
      t.keys.getLsbD k.toNat = true ∧ t.keys.getLsbD k'.toNat = true

/-! ### Display -/

/-- R141 (that CLS exists and always sets the flag are decisions D13 and D16): CLS clears every pixel, sets `DIRTY`, returns
`redraw` and advances; nothing else changes. -/
def Obligations.ClsClearsTheScreen : Prop :=
  ∀ s : State, ∃ t, exec .cls s = .next t ∧ (∀ x y, t.fb.pixel x y = false) ∧
    t = { s with fb := t.fb, dirty := true, pc := s.pc + 2,
                 out := { s.out with signals := { s.out.signals with redraw := true } } }

/-- R142, R145 (the row count, the layout and the flag's cause are decisions D21, D20 and D16): DRW flips exactly the pixels the
sprite covers, with wraparound on both axes; `VF` is 1 iff one of them was set; `DIRTY` and `redraw` are set; no other register
changes. The coordinates are those read before `VF` is written. -/
def Obligations.DrawIsTheXorOfTheSprite : Prop :=
  ∀ (vx vy : Reg) (n : BitVec 4) (s : State), s.cfg.wf = true →
    s.i.toNat + (n.toNat + s.cfg.spriteRowBias) ≤ 4096 →
    ∃ t, exec (.drw vx vy n) s = .next t ∧
      (∀ x y, t.fb.pixel x y = (s.fb.pixel x y ^^
        spriteCovers (s.spriteBytes n) ((s.reg vx).toNat % 64) ((s.reg vy).toNat % 32) x y)) ∧
      (t.reg VF = 1 ∨ t.reg VF = 0) ∧
      (t.reg VF = 1 ↔ ∃ x y, s.fb.pixel x y = true ∧
        spriteCovers (s.spriteBytes n) ((s.reg vx).toNat % 64) ((s.reg vy).toNat % 32) x y = true) ∧
      (∀ k, k ≠ VF → t.reg k = s.reg k) ∧
      t = { s with fb := t.fb, v := t.v, dirty := true, pc := s.pc + 2,
                   out := { s.out with signals := { s.out.signals with redraw := true } } }

/-- R145: a second draw of the same sprite at the same place restores every pixel, under every configuration the spec allows. -/
def Obligations.DrawingTwiceRestoresThePixels : Prop :=
  ∀ (vx vy : Reg) (n : BitVec 4) (s : State), s.cfg.wf = true → s.i.toNat + (n.toNat + s.cfg.spriteRowBias) ≤ 4096 →
    vx ≠ VF → vy ≠ VF →
    ∃ t u, exec (.drw vx vy n) s = .next t ∧ exec (.drw vx vy n) t = .next u ∧ u.fb = s.fb

/-! ### Events -/

/-- R183: TICK decrements each timer unless it is 0, returns `beep` when `ST` goes from 1 to 0, and reads and writes nothing
else, in every state. -/
def Obligations.TickCountsDown : Prop :=
  ∀ s : State, ∃ t, performEvent .tick s = .next t ∧
    t.dt.toNat = s.dt.toNat - 1 ∧ t.st.toNat = s.st.toNat - 1 ∧
    t = { s with dt := t.dt, st := t.st, out := { signals := { beep := decide (s.st.toNat = 1 ∧ t.st.toNat = 0) } } }

/-- R184 (that TICK returns the signal is decision D15): over any number of TICKs with no reload both timers reach 0 and stay
there, and the `n`-th TICK is the one that returns `beep` exactly when `ST` held `n`. -/
def Obligations.TheTickThatEmptiesTheTimerBeeps : Prop :=
  ∀ (s : State) (n : Nat), ∃ t, performAll (List.replicate (n + 1) .tick) s = .next t ∧
    t.dt.toNat = s.dt.toNat - (n + 1) ∧ t.st.toNat = s.st.toNat - (n + 1) ∧
    t.out.signals = { beep := decide (s.st.toNat = n + 1) }

/-- R185: SET_KEY writes the one bit of `KEYS`, and latches the key exactly when it is pressed, was not held, the core waits and
the latch is empty; nothing else changes. -/
def Obligations.SetKeyWritesOneBit : Prop :=
  ∀ (k : BitVec 4) (pressed : Bool) (s : State), ∃ t, performEvent (.setKey k pressed) s = .next t ∧
    t.keys.getLsbD k.toNat = pressed ∧ (∀ j : BitVec 4, j ≠ k → t.keys.getLsbD j.toNat = s.keys.getLsbD j.toNat) ∧
    (pressed = true ∧ s.keys.getLsbD k.toNat = false ∧ s.wait = true ∧ s.klValid = false →
      t.klValid = true ∧ t.klKey = k) ∧
    (¬ (pressed = true ∧ s.keys.getLsbD k.toNat = false ∧ s.wait = true ∧ s.klValid = false) →
      t.klValid = s.klValid ∧ t.klKey = s.klKey) ∧
    t = { s with keys := t.keys, klValid := t.klValid, klKey := t.klKey, out := {} }

/-- R155: READ_VIDEO returns the pixels and the flag and clears the flag, so that a second one returns the same pixels and flag
0; the pixels do not change. -/
def Obligations.ReadVideoClearsTheFlag : Prop :=
  ∀ s : State,
    performEvent .readVideo s = .next { s with dirty := false, out := { video := some (s.fb, s.dirty) } } ∧
    performAll [.readVideo, .readVideo] s = .next { s with dirty := false, out := { video := some (s.fb, false) } }

/-- R190 (decision D24): TICK, SET_KEY and READ_VIDEO do not consult `FAULT`: they do the same whatever it holds. -/
def Obligations.OtherEventsIgnoreTheFault : Prop :=
  ∀ (e : Event) (s t : State) (f : Option Fault), (e = .tick ∨ (∃ k p, e = .setKey k p) ∨ e = .readVideo) →
    performEvent e s = .next t → performEvent e { s with fault := f } = .next { t with fault := f }

/-- R26, R29: the values after reset under every configuration, and the defaults of R4, under which `State.reset` is (the
entry point, the font and the other defaults are decisions D2, D3, D4, D5 and D21). -/
def Obligations.ResetValues : Prop :=
  (∀ c : Config, ∃ s, State.resetOf c = s ∧ s.cfg = c ∧
    (∀ a, s.mem.read s.cfg a =
      if h : c.fontBase ≤ a ∧ a < c.fontBase + 80 then c.fontData[a - c.fontBase]'(by show _ < 80; omega) else 0) ∧
    (∀ k, s.reg k = 0) ∧ s.i = 0 ∧ s.pc = c.resetPc ∧ (∀ k : Fin 16, s.stack[k] = 0) ∧ s.sp = 0 ∧ s.dt = 0 ∧ s.st = 0 ∧
    s.keys = 0 ∧ (∀ x y, s.fb.pixel x y = false) ∧ s.dirty = false ∧ s.wait = false ∧ s.klValid = false ∧ s.klKey = 0 ∧
    s.faultCode = 0) ∧
  State.reset = State.resetOf Config.core ∧ Config.core.fontBase = 0 ∧ Config.core.fontData = defaultFont ∧
  Config.core.resetPc = 0x200 ∧ Config.core.addImmWritesVf = false ∧ Config.core.spriteRowBias = 1

/-- R200 (decision D2 for the entry point): RESET brings every piece of state of the core to its reset value under the machine's
configuration, in every state, and returns nothing. -/
def Obligations.ResetRestoresEverything : Prop :=
  ∀ s : State, ∃ t, performEvent .reset s = .next t ∧ (State.resetOf s.cfg).SameCore t ∧ t.out = {}

/-- R201: LOAD of an image that fits is a RESET followed by the verbatim copy from 0x200: every other byte is at its reset
contents, and nothing of an earlier run survives. -/
def Obligations.LoadCopiesTheImage : Prop :=
  ∀ (image : List Byte) (s : State), image.length ≤ 3584 → ∃ t, performEvent (.load image) s = .next t ∧
    (∀ k (h : k < image.length), t.mem.read t.cfg (0x200 + k) = image[k]) ∧
    (∀ a, a < 0x200 ∨ 0x200 + image.length ≤ a → t.mem.read t.cfg a = (State.resetOf s.cfg).mem.read s.cfg a) ∧
    State.SameCore { State.resetOf s.cfg with mem := t.mem } t ∧ t.out = { load := some .ok }

/-- R202 (that nothing at all changes is decision D27): an image of more than 3584 bytes is rejected with an explicit result,
and the state is as before. -/
def Obligations.OversizeImageIsRejected : Prop :=
  ∀ (image : List Byte) (s : State), 3584 < image.length →
    performEvent (.load image) s = .next { s with out := { load := some .oversizeProgram } }

/-- R178, R171 (decision D10): a fault's entry writes its code to `FAULT`; a STEP that faults from a state without a fault has
one of the codes 1 to 4 and leaves every other piece of state. -/
def Obligations.FaultEntryHoldsTheCode : Prop :=
  (∀ (s : State) (e : Raise), (s.raise e).faultCode = e.fault.code ∧ Raises s (s.raise e) e.fault e.info) ∧
  Fault.stackOverflow.code = 1 ∧ Fault.stackUnderflow.code = 2 ∧ Fault.entropyUnavailable.code = 3 ∧
  Fault.addressOutOfRange.code = 4 ∧
  ∀ (s t : State) (rnd : Option Byte), s.fault = none → performEvent (.step rnd) s = .next t → t.fault ≠ none →
    ∃ f info, Raises { s with rnd := rnd } t f info

/-! ### Invariants -/

/-- R27: every step, whatever event it performs, keeps the invariant. -/
def Obligations.EveryStepKeepsTheInvariant : Prop :=
  ∀ s t : State, s.Inv → step s = .next t → t.Inv

/-- R27: the invariant holds after reset, under every configuration the spec allows (R4), the default one among them. -/
def Obligations.ResetMeetsTheInvariant : Prop :=
  (∀ c : Config, c.wf = true → (State.resetOf c).Inv) ∧ State.reset.Inv

/-- R216, R91: a parked program stays as it is under every further STEP. -/
def Obligations.ParkedProgramStays : Prop :=
  ∀ (s : State) (rnds : List (Option Byte)), s.Parked →
    ∃ t, performAll (rnds.map Event.step) s = .next t ∧ s.SameCore t ∧ t.Parked

/-- Equal memories are equal data: two canonical memories that read alike at every address are the same list (the form is this
model's, log entry 7). -/
def Obligations.CanonicalMemoriesThatReadAlikeAreEqual : Prop :=
  ∀ (c : Config) (m m' : Memory), m.wf c = true → m'.wf c = true → (∀ a, a < 4096 → m.read c a = m'.read c a) → m = m'
end

