-- ==== Sys2Proof/Laws/Decode.lean ====
section
/-! SUPPORT. The fields of the three word formats, and a word put together again from its fields: what the round trips of the
decoder and the encoder rest on. -/

namespace Sys2Proof

/-! ### The fields of a formatted word (R61, R62) -/

@[simp] theorem family_formatA (f : BitVec 4) (nnn : BitVec 12) : family (formatA f nnn) = f :=
  BitVec.eq_of_getLsbD_eq fun i hi => by
    simp only [family, formatA, BitVec.getLsbD_extractLsb', BitVec.getLsbD_append]
    simp [hi, show ¬ 12 + i < 12 by omega, show 12 + i - 12 = i by omega]

@[simp] theorem fieldNNN_formatA (f : BitVec 4) (nnn : BitVec 12) : fieldNNN (formatA f nnn) = nnn :=
  BitVec.eq_of_getLsbD_eq fun i hi => by
    simp only [fieldNNN, formatA, BitVec.getLsbD_extractLsb', BitVec.getLsbD_append]
    simp [hi]

@[simp] theorem family_formatXB (f : BitVec 4) (x : Reg) (nn : Byte) : family (formatXB f x nn) = f :=
  BitVec.eq_of_getLsbD_eq fun i hi => by
    simp only [family, formatXB, BitVec.getLsbD_extractLsb', BitVec.getLsbD_append]
    simp [hi, show ¬ 12 + i < 8 by omega, show 12 + i - 8 = 4 + i by omega, show ¬ 4 + i < 4 by omega, show 4 + i - 4 = i by omega]

@[simp] theorem fieldX_formatXB (f : BitVec 4) (x : Reg) (nn : Byte) : fieldX (formatXB f x nn) = x :=
  BitVec.eq_of_getLsbD_eq fun i hi => by
    simp only [fieldX, formatXB, BitVec.getLsbD_extractLsb', BitVec.getLsbD_append]
    simp [hi, show ¬ 8 + i < 8 by omega, show 8 + i - 8 = i by omega]

@[simp] theorem fieldNN_formatXB (f : BitVec 4) (x : Reg) (nn : Byte) : fieldNN (formatXB f x nn) = nn :=
  BitVec.eq_of_getLsbD_eq fun i hi => by
    simp only [fieldNN, formatXB, BitVec.getLsbD_extractLsb', BitVec.getLsbD_append]
    simp [hi]

@[simp] theorem family_formatXYN (f : BitVec 4) (x y : Reg) (n : BitVec 4) : family (formatXYN f x y n) = f :=
  BitVec.eq_of_getLsbD_eq fun i hi => by
    simp only [family, formatXYN, BitVec.getLsbD_extractLsb', BitVec.getLsbD_append]
    simp [hi, show ¬ 12 + i < 4 by omega, show 12 + i - 4 = 8 + i by omega, show ¬ 8 + i < 4 by omega, show 8 + i - 4 = 4 + i by omega, show ¬ 4 + i < 4 by omega, show 4 + i - 4 = i by omega]

@[simp] theorem fieldX_formatXYN (f : BitVec 4) (x y : Reg) (n : BitVec 4) : fieldX (formatXYN f x y n) = x :=
  BitVec.eq_of_getLsbD_eq fun i hi => by
    simp only [fieldX, formatXYN, BitVec.getLsbD_extractLsb', BitVec.getLsbD_append]
    simp [hi, show ¬ 8 + i < 4 by omega, show 8 + i - 4 = 4 + i by omega, show ¬ 4 + i < 4 by omega, show 4 + i - 4 = i by omega]

@[simp] theorem fieldY_formatXYN (f : BitVec 4) (x y : Reg) (n : BitVec 4) : fieldY (formatXYN f x y n) = y :=
  BitVec.eq_of_getLsbD_eq fun i hi => by
    simp only [fieldY, formatXYN, BitVec.getLsbD_extractLsb', BitVec.getLsbD_append]
    simp [hi, show ¬ 4 + i < 4 by omega, show 4 + i - 4 = i by omega]

@[simp] theorem fieldN_formatXYN (f : BitVec 4) (x y : Reg) (n : BitVec 4) : fieldN (formatXYN f x y n) = n :=
  BitVec.eq_of_getLsbD_eq fun i hi => by
    simp only [fieldN, formatXYN, BitVec.getLsbD_extractLsb', BitVec.getLsbD_append]
    simp [hi]

/-! ### A word from its fields -/

/-- The high byte before the low byte is the word (R42). -/
theorem wordOfBytes_extract (w : Word) : wordOfBytes (w.extractLsb' 8 8) (w.extractLsb' 0 8) = w := by
  refine BitVec.eq_of_getLsbD_eq fun i hi => ?_
  simp only [wordOfBytes, BitVec.getLsbD_append, BitVec.getLsbD_extractLsb']
  split
  · next h => simp [h]
  · next h => simp [show i - 8 < 8 by omega, show 8 + (i - 8) = i by omega]

theorem formatA_fields (w : Word) : formatA (family w) (fieldNNN w) = w := by
  refine BitVec.eq_of_getLsbD_eq fun i hi => ?_
  simp only [formatA, family, fieldNNN, BitVec.getLsbD_append, BitVec.getLsbD_extractLsb']
  split
  · next h => simp [h]
  · next h => simp [show i - 12 < 4 by omega, show 12 + (i - 12) = i by omega]

theorem fieldNNN_split (w : Word) : fieldNNN w = fieldX w ++ fieldNN w := by
  refine BitVec.eq_of_getLsbD_eq fun i hi => ?_
  simp only [fieldNNN, fieldX, fieldNN, BitVec.getLsbD_append, BitVec.getLsbD_extractLsb', hi]
  split
  · next h => simp [h]
  · next h => simp [show i - 8 < 4 by omega, show 8 + (i - 8) = i by omega]

theorem fieldNN_split (w : Word) : fieldNN w = fieldY w ++ fieldN w := by
  refine BitVec.eq_of_getLsbD_eq fun i hi => ?_
  simp only [fieldNN, fieldY, fieldN, BitVec.getLsbD_append, BitVec.getLsbD_extractLsb', hi]
  split
  · next h => simp [h]
  · next h => simp [show i - 4 < 4 by omega, show 4 + (i - 4) = i by omega]

/-! ### A formatted word under the masks of the opcode table -/

theorem formatA_and (f : BitVec 4) (nnn : BitVec 12) : formatA f nnn &&& 0xF000 = formatA f 0 := by
  show (f ++ nnn) &&& (0xF#4 ++ 0x000#12) = f ++ 0#12
  rw [BitVec.and_append, show (0xF#4) = BitVec.allOnes 4 from rfl, BitVec.and_allOnes, BitVec.and_zero]

theorem formatXB_and_family (f : BitVec 4) (x : Reg) (nn : Byte) : formatXB f x nn &&& 0xF000 = formatXB f 0 0 := by
  show (f ++ x ++ nn) &&& (0xF#4 ++ 0x0#4 ++ 0x00#8) = f ++ 0#4 ++ 0#8
  rw [BitVec.and_append, BitVec.and_append, show (0xF#4) = BitVec.allOnes 4 from rfl, BitVec.and_allOnes, BitVec.and_zero,
    BitVec.and_zero]

theorem formatXB_and_selector (f : BitVec 4) (x : Reg) (nn : Byte) : formatXB f x nn &&& 0xF0FF = formatXB f 0 nn := by
  show (f ++ x ++ nn) &&& (0xF#4 ++ 0x0#4 ++ 0xFF#8) = f ++ 0#4 ++ nn
  rw [BitVec.and_append, BitVec.and_append, show (0xF#4) = BitVec.allOnes 4 from rfl,
    show (0xFF#8) = BitVec.allOnes 8 from rfl, BitVec.and_allOnes, BitVec.and_allOnes, BitVec.and_zero]

theorem formatXYN_and_family (f : BitVec 4) (x y : Reg) (n : BitVec 4) :
    formatXYN f x y n &&& 0xF000 = formatXYN f 0 0 0 := by
  show (f ++ x ++ y ++ n) &&& (0xF#4 ++ 0x0#4 ++ 0x0#4 ++ 0x0#4) = f ++ 0#4 ++ 0#4 ++ 0#4
  simp only [BitVec.and_append, show (0xF#4) = BitVec.allOnes 4 from rfl, BitVec.and_allOnes, BitVec.and_zero]

theorem formatXYN_and_selector (f : BitVec 4) (x y : Reg) (n : BitVec 4) :
    formatXYN f x y n &&& 0xF00F = formatXYN f 0 0 n := by
  show (f ++ x ++ y ++ n) &&& (0xF#4 ++ 0x0#4 ++ 0x0#4 ++ 0xF#4) = f ++ 0#4 ++ 0#4 ++ n
  simp only [BitVec.and_append, show (0xF#4) = BitVec.allOnes 4 from rfl, BitVec.and_allOnes, BitVec.and_zero]

/-- A word is its four nibbles (R61). -/
theorem formatXYN_fields (w : Word) : formatXYN (family w) (fieldX w) (fieldY w) (fieldN w) = w := by
  refine BitVec.eq_of_getLsbD_eq fun i hi => ?_
  simp only [formatXYN, family, fieldX, fieldY, fieldN, BitVec.getLsbD_append, BitVec.getLsbD_extractLsb']
  split
  · next h => simp [h]
  · next h =>
    split
    · next h1 => simp [h1, show 4 + (i - 4) = i by omega]
    · next h1 =>
      split
      · next h2 => simp [h2, show 8 + (i - 4 - 4) = i by omega]
      · next h2 => simp [show 12 + (i - 4 - 4 - 4) = i by omega, show i - 4 - 4 - 4 < 4 by omega]

/-- A word is its family, its `X` nibble and its low byte (R61). -/
theorem formatXB_fields (w : Word) : formatXB (family w) (fieldX w) (fieldNN w) = w := by
  refine BitVec.eq_of_getLsbD_eq fun i hi => ?_
  simp only [formatXB, family, fieldX, fieldNN, BitVec.getLsbD_append, BitVec.getLsbD_extractLsb']
  split
  · next h => simp [h]
  · next h =>
    split
    · next h1 => simp [h1, show 8 + (i - 8) = i by omega]
    · next h1 => simp [show 12 + (i - 8 - 4) = i by omega, show i - 8 - 4 < 4 by omega]

/-- The `Y` nibble that SHR and SHL do not look at (R65). -/
theorem formatXYN_and_dropY (f : BitVec 4) (x y : Reg) (n : BitVec 4) :
    formatXYN f x y n &&& 0xFF0F = formatXYN f x 0 n := by
  show (f ++ x ++ y ++ n) &&& (0xF#4 ++ 0xF#4 ++ 0x0#4 ++ 0xF#4) = f ++ x ++ 0#4 ++ n
  simp only [BitVec.and_append, show (0xF#4) = BitVec.allOnes 4 from rfl, BitVec.and_allOnes, BitVec.and_zero]

/-- The low nibble that families 0x5 and 0x9 do not look at (R65). -/
theorem formatXYN_and_dropN (f : BitVec 4) (x y : Reg) (n : BitVec 4) :
    formatXYN f x y n &&& 0xFFF0 = formatXYN f x y 0 := by
  show (f ++ x ++ y ++ n) &&& (0xF#4 ++ 0xF#4 ++ 0xF#4 ++ 0x0#4) = f ++ x ++ y ++ 0#4
  simp only [BitVec.and_append, show (0xF#4) = BitVec.allOnes 4 from rfl, BitVec.and_allOnes, BitVec.and_zero]

end Sys2Proof
end

