-- ==== Sys2Proof/Laws/Memory.lean ====
section
/-! SUPPORT. The laws of memory: a read after a write, the canonical form kept by every write, and equal reads give equal
memories. -/

namespace Sys2Proof.Machine

variable {cfg : Config}

/-- A byte of the font (R11). -/
theorem Memory.unlisted_font {a : Nat} (h : cfg.fontBase ≤ a) (h' : a - cfg.fontBase < fontBytes) :
    Memory.unlisted cfg a = cfg.fontData[a - cfg.fontBase] := by
  simp [Memory.unlisted, h, List.getD_eq_getElem?_getD, h']

/-- Outside the font the reset contents are zero (R26). -/
theorem Memory.unlisted_zero {a : Nat} (h : a < cfg.fontBase ∨ fontBytes ≤ a - cfg.fontBase) : Memory.unlisted cfg a = 0 := by
  unfold Memory.unlisted
  split
  · have : fontBytes ≤ a - cfg.fontBase := h.resolve_left (by omega)
    simp [List.getD_eq_getElem?_getD, this]
  · rfl

/-- A memory that lists nothing reads as the reset contents. -/
@[simp] theorem Memory.read_nil (a : Nat) : Memory.read cfg [] a = Memory.unlisted cfg a := rfl

/-- A read of a memory with a first cell. -/
theorem Memory.read_listed (k : Nat) (b : Byte) (m : Memory) (a : Nat) :
    Memory.read cfg ((k, b) :: m) a = if a = k then b else m.read cfg a := rfl

/-- An address below every listed one reads as its reset contents. -/
theorem Memory.read_below {m : Memory} {lo a : Nat} (h : Memory.wfAbove cfg lo m) (ha : a < lo) :
    m.read cfg a = Memory.unlisted cfg a := by
  induction m generalizing lo with
  | nil => rfl
  | cons c m ih =>
    obtain ⟨k, b⟩ := c
    simp only [Memory.wfAbove, Bool.and_eq_true, decide_eq_true_eq] at h
    obtain ⟨⟨⟨hk, -⟩, -⟩, hm⟩ := h
    rw [Memory.read, if_neg (by omega)]
    exact ih hm (by omega)

/-- A larger bound is met by memories that list nothing below it. -/
theorem Memory.wfAbove_mono {m : Memory} {lo lo' : Nat} (h : Memory.wfAbove cfg lo m) (hl : lo' ≤ lo) :
    Memory.wfAbove cfg lo' m := by
  cases m with
  | nil => rfl
  | cons c m =>
    simp only [Memory.wfAbove, Bool.and_eq_true, decide_eq_true_eq] at h ⊢
    exact ⟨⟨⟨by omega, h.1.1.2⟩, h.1.2⟩, h.2⟩

/-- A cell put before a memory that lists only higher addresses keeps the canonical form. -/
theorem Memory.wfAbove_cons {m : Memory} {lo a : Nat} (b : Byte) (hm : Memory.wfAbove cfg (a + 1) m) (hlo : lo ≤ a)
    (ha : a < memSize) : Memory.wfAbove cfg lo (Memory.cons cfg a b m) := by
  unfold Memory.cons
  split
  · exact Memory.wfAbove_mono hm (by omega)
  · next hb => simp [Memory.wfAbove, hlo, ha, hb, hm]

/-- What is read after a cell is put before a memory that lists only higher addresses. -/
theorem Memory.read_cons {m : Memory} {a : Nat} (b : Byte) (k : Nat) (hm : Memory.wfAbove cfg (a + 1) m) :
    (Memory.cons cfg a b m).read cfg k = if k = a then b else m.read cfg k := by
  unfold Memory.cons
  split
  · next hb =>
    split
    · next hk => rw [hk, Memory.read_below hm (by omega), hb]
    · rfl
  · rfl

/-- A write keeps the canonical form (above a bound). -/
theorem Memory.write_wfAbove {m : Memory} {lo a : Nat} (b : Byte) (h : Memory.wfAbove cfg lo m) (hlo : lo ≤ a)
    (ha : a < memSize) : Memory.wfAbove cfg lo (m.write cfg a b) := by
  induction m generalizing lo with
  | nil => exact Memory.wfAbove_cons b rfl hlo ha
  | cons c m ih =>
    obtain ⟨k, d⟩ := c
    have hw := h
    simp only [Memory.wfAbove, Bool.and_eq_true, decide_eq_true_eq] at h
    obtain ⟨⟨⟨hk, hsz⟩, hd⟩, hm⟩ := h
    unfold Memory.write
    split
    · next hlt =>
      refine Memory.wfAbove_cons b ?_ hlo ha
      simp only [Memory.wfAbove, Bool.and_eq_true, decide_eq_true_eq]
      exact ⟨⟨⟨by omega, hsz⟩, hd⟩, hm⟩
    · split
      · next heq => exact Memory.wfAbove_cons b (heq ▸ hm) hlo ha
      · simp only [Memory.wfAbove, Bool.and_eq_true, decide_eq_true_eq]
        exact ⟨⟨⟨hk, hsz⟩, hd⟩, ih hm (by omega)⟩

/-- A read after a write (above a bound): the byte written at its address, and the old byte everywhere else. -/
theorem Memory.read_write_above {m : Memory} {lo : Nat} (a : Nat) (b : Byte) (k : Nat) (h : Memory.wfAbove cfg lo m) :
    (m.write cfg a b).read cfg k = if k = a then b else m.read cfg k := by
  induction m generalizing lo with
  | nil => exact Memory.read_cons b k rfl
  | cons c m ih =>
    obtain ⟨k', d⟩ := c
    have hw := h
    simp only [Memory.wfAbove, Bool.and_eq_true, decide_eq_true_eq] at h
    obtain ⟨⟨⟨hk, hsz⟩, hd⟩, hm⟩ := h
    unfold Memory.write
    split
    · next hlt =>
      refine Memory.read_cons b k ?_
      simp only [Memory.wfAbove, Bool.and_eq_true, decide_eq_true_eq]
      exact ⟨⟨⟨by omega, hsz⟩, hd⟩, hm⟩
    · split
      · next heq =>
        rw [Memory.read_cons b k (heq ▸ hm), Memory.read]
        split
        · rfl
        · next hne => rw [if_neg (by omega)]
      · next hne =>
        rw [Memory.read, Memory.read, ih hm]
        split
        · next hkk => rw [if_neg (by omega)]
        · rfl

/-- R50: a read returns the most recent write to that byte, and a write leaves every other byte alone. -/
theorem Memory.read_write {m : Memory} (h : m.wf cfg) (a : Nat) (b : Byte) (k : Nat) :
    (m.write cfg a b).read cfg k = if k = a then b else m.read cfg k :=
  Memory.read_write_above a b k h

/-- A write inside the address space keeps the canonical form. -/
theorem Memory.write_wf {m : Memory} (h : m.wf cfg) {a : Nat} (b : Byte) (ha : a < memSize) : (m.write cfg a b).wf cfg :=
  Memory.write_wfAbove b h (Nat.zero_le a) ha

/-- A write of several bytes inside the address space keeps the canonical form. -/
theorem Memory.writeBytes_wf {m : Memory} (h : m.wf cfg) {a : Nat} (bs : List Byte) (ha : a + bs.length ≤ memSize) :
    (m.writeBytes cfg a bs).wf cfg := by
  induction bs generalizing m a with
  | nil => exact h
  | cons b bs ih =>
    simp only [List.length_cons] at ha
    exact ih (Memory.write_wf h b (by omega)) (by omega)

/-- A write of several bytes inside the address space: the written bytes, and every other byte as before. -/
theorem Memory.read_writeBytes {m : Memory} (h : m.wf cfg) (a : Nat) (bs : List Byte) (ha : a + bs.length ≤ memSize) (k : Nat) :
    (m.writeBytes cfg a bs).read cfg k = if a ≤ k ∧ k < a + bs.length then bs.getD (k - a) 0 else m.read cfg k := by
  induction bs generalizing m a with
  | nil =>
    rw [if_neg (by simp only [List.length_nil]; omega)]
    rfl
  | cons b bs ih =>
    simp only [List.length_cons] at ha ⊢
    rw [Memory.writeBytes, ih (Memory.write_wf h b (by omega)) (a + 1) (by omega), Memory.read_write h]
    by_cases hk : k = a
    · subst hk
      rw [if_neg (by omega), if_pos rfl, if_pos (by omega), Nat.sub_self, List.getD_cons_zero]
    · by_cases hin : a + 1 ≤ k ∧ k < a + 1 + bs.length
      · obtain ⟨j, rfl⟩ : ∃ j, k = a + 1 + j := ⟨k - (a + 1), by omega⟩
        rw [if_pos hin, if_pos (by omega), show a + 1 + j - (a + 1) = j by omega, show a + 1 + j - a = j + 1 by omega,
          List.getD_cons_succ]
      · rw [if_neg hin, if_neg hk, if_neg (by omega)]

/-- Two canonical memories that read alike are equal data (above a bound). -/
theorem Memory.ext_above {m m' : Memory} {lo : Nat} (h : Memory.wfAbove cfg lo m) (h' : Memory.wfAbove cfg lo m')
    (hr : ∀ a, lo ≤ a → m.read cfg a = m'.read cfg a) : m = m' := by
  have differs {n : Memory} {k : Nat} {b : Byte} (hk : lo ≤ k) (hb : (b != Memory.unlisted cfg k) = true)
      (hn : Memory.wfAbove cfg (k + 1) n) (he : b = n.read cfg k) : False := by
    rw [Memory.read_below hn (Nat.lt_succ_self k)] at he
    simp [he] at hb
  induction m generalizing lo m' with
  | nil =>
    cases m' with
    | nil => rfl
    | cons c m' =>
      obtain ⟨k, b⟩ := c
      simp only [Memory.wfAbove, Bool.and_eq_true, decide_eq_true_eq] at h'
      have e := hr k h'.1.1.1
      simp [Memory.read] at e
      simp [e] at h'
  | cons c m ih =>
    obtain ⟨k, b⟩ := c
    have hw := h
    simp only [Memory.wfAbove, Bool.and_eq_true, decide_eq_true_eq] at h
    cases m' with
    | nil =>
      have e := hr k h.1.1.1
      simp [Memory.read] at e
      simp [e] at h
    | cons c' m' =>
      obtain ⟨k', b'⟩ := c'
      have hw' := h'
      simp only [Memory.wfAbove, Bool.and_eq_true, decide_eq_true_eq] at h'
      have e := hr k h.1.1.1
      have e' := hr k' h'.1.1.1
      rw [Memory.read, if_pos rfl] at e
      rw [Memory.read_listed k' b' m', if_pos rfl] at e'
      rcases Nat.lt_trichotomy k k' with hlt | heq | hgt
      · refine (differs h.1.1.1 h.1.2 (n := (k', b') :: m') ?_ e).elim
        simp only [Memory.wfAbove, Bool.and_eq_true, decide_eq_true_eq]
        exact ⟨⟨⟨by omega, h'.1.1.2⟩, h'.1.2⟩, h'.2⟩
      · subst heq
        rw [Memory.read, if_pos rfl] at e
        subst e
        congr 1
        refine ih h.2 h'.2 (fun a ha => ?_) (fun hk hb hn he => ?_)
        · have := hr a (by omega)
          rwa [Memory.read, if_neg (by omega), Memory.read_listed k b m', if_neg (by omega)] at this
        · rw [Memory.read_below hn (Nat.lt_succ_self _)] at he
          simp [he] at hb
      · refine (differs h'.1.1.1 h'.1.2 (n := (k, b) :: m) ?_ e'.symm).elim
        simp only [Memory.wfAbove, Bool.and_eq_true, decide_eq_true_eq]
        exact ⟨⟨⟨by omega, h.1.1.2⟩, h.1.2⟩, h.2⟩

/-- Memory's reset contents are in canonical form. -/
theorem Memory.reset_wf : (State.resetOf cfg).mem.wf cfg := rfl

end Sys2Proof.Machine
end

