-- ==== Sys2Proof/Laws/State.lean ====
section
/-! SUPPORT. One lemma per field per named update of `State`, each true by definition, so that no later proof unfolds a record
update; and what a register reads as after each of them. -/

namespace Sys2Proof.Machine

/-! ### setReg -/

@[simp] theorem State.setReg_cfg (s : State) (x : Reg) (b : Byte) : (s.setReg x b).cfg = s.cfg := rfl
@[simp] theorem State.setReg_mem (s : State) (x : Reg) (b : Byte) : (s.setReg x b).mem = s.mem := rfl
@[simp] theorem State.setReg_v (s : State) (x : Reg) (b : Byte) : (s.setReg x b).v = s.v.set (regIndex x) b := rfl
@[simp] theorem State.setReg_i (s : State) (x : Reg) (b : Byte) : (s.setReg x b).i = s.i := rfl
@[simp] theorem State.setReg_pc (s : State) (x : Reg) (b : Byte) : (s.setReg x b).pc = s.pc := rfl
@[simp] theorem State.setReg_stack (s : State) (x : Reg) (b : Byte) : (s.setReg x b).stack = s.stack := rfl
@[simp] theorem State.setReg_sp (s : State) (x : Reg) (b : Byte) : (s.setReg x b).sp = s.sp := rfl
@[simp] theorem State.setReg_dt (s : State) (x : Reg) (b : Byte) : (s.setReg x b).dt = s.dt := rfl
@[simp] theorem State.setReg_st (s : State) (x : Reg) (b : Byte) : (s.setReg x b).st = s.st := rfl
@[simp] theorem State.setReg_keys (s : State) (x : Reg) (b : Byte) : (s.setReg x b).keys = s.keys := rfl
@[simp] theorem State.setReg_fb (s : State) (x : Reg) (b : Byte) : (s.setReg x b).fb = s.fb := rfl
@[simp] theorem State.setReg_dirty (s : State) (x : Reg) (b : Byte) : (s.setReg x b).dirty = s.dirty := rfl
@[simp] theorem State.setReg_wait (s : State) (x : Reg) (b : Byte) : (s.setReg x b).wait = s.wait := rfl
@[simp] theorem State.setReg_klValid (s : State) (x : Reg) (b : Byte) : (s.setReg x b).klValid = s.klValid := rfl
@[simp] theorem State.setReg_klKey (s : State) (x : Reg) (b : Byte) : (s.setReg x b).klKey = s.klKey := rfl
@[simp] theorem State.setReg_fault (s : State) (x : Reg) (b : Byte) : (s.setReg x b).fault = s.fault := rfl
@[simp] theorem State.setReg_rnd (s : State) (x : Reg) (b : Byte) : (s.setReg x b).rnd = s.rnd := rfl
@[simp] theorem State.setReg_out (s : State) (x : Reg) (b : Byte) : (s.setReg x b).out = s.out := rfl
@[simp] theorem State.setReg_pending (s : State) (x : Reg) (b : Byte) : (s.setReg x b).pending = s.pending := rfl
@[simp] theorem State.setReg_draws (s : State) (x : Reg) (b : Byte) : (s.setReg x b).draws = s.draws := rfl

/-! ### setPc -/

@[simp] theorem State.setPc_cfg (s : State) (p : Word) : (s.setPc p).cfg = s.cfg := rfl
@[simp] theorem State.setPc_mem (s : State) (p : Word) : (s.setPc p).mem = s.mem := rfl
@[simp] theorem State.setPc_v (s : State) (p : Word) : (s.setPc p).v = s.v := rfl
@[simp] theorem State.setPc_i (s : State) (p : Word) : (s.setPc p).i = s.i := rfl
@[simp] theorem State.setPc_pc (s : State) (p : Word) : (s.setPc p).pc = p := rfl
@[simp] theorem State.setPc_stack (s : State) (p : Word) : (s.setPc p).stack = s.stack := rfl
@[simp] theorem State.setPc_sp (s : State) (p : Word) : (s.setPc p).sp = s.sp := rfl
@[simp] theorem State.setPc_dt (s : State) (p : Word) : (s.setPc p).dt = s.dt := rfl
@[simp] theorem State.setPc_st (s : State) (p : Word) : (s.setPc p).st = s.st := rfl
@[simp] theorem State.setPc_keys (s : State) (p : Word) : (s.setPc p).keys = s.keys := rfl
@[simp] theorem State.setPc_fb (s : State) (p : Word) : (s.setPc p).fb = s.fb := rfl
@[simp] theorem State.setPc_dirty (s : State) (p : Word) : (s.setPc p).dirty = s.dirty := rfl
@[simp] theorem State.setPc_wait (s : State) (p : Word) : (s.setPc p).wait = s.wait := rfl
@[simp] theorem State.setPc_klValid (s : State) (p : Word) : (s.setPc p).klValid = s.klValid := rfl
@[simp] theorem State.setPc_klKey (s : State) (p : Word) : (s.setPc p).klKey = s.klKey := rfl
@[simp] theorem State.setPc_fault (s : State) (p : Word) : (s.setPc p).fault = s.fault := rfl
@[simp] theorem State.setPc_rnd (s : State) (p : Word) : (s.setPc p).rnd = s.rnd := rfl
@[simp] theorem State.setPc_out (s : State) (p : Word) : (s.setPc p).out = s.out := rfl
@[simp] theorem State.setPc_pending (s : State) (p : Word) : (s.setPc p).pending = s.pending := rfl
@[simp] theorem State.setPc_draws (s : State) (p : Word) : (s.setPc p).draws = s.draws := rfl

/-! ### advance -/

@[simp] theorem State.advance_cfg (s : State) : (s.advance).cfg = s.cfg := rfl
@[simp] theorem State.advance_mem (s : State) : (s.advance).mem = s.mem := rfl
@[simp] theorem State.advance_v (s : State) : (s.advance).v = s.v := rfl
@[simp] theorem State.advance_i (s : State) : (s.advance).i = s.i := rfl
@[simp] theorem State.advance_pc (s : State) : (s.advance).pc = s.pc + 2 := rfl
@[simp] theorem State.advance_stack (s : State) : (s.advance).stack = s.stack := rfl
@[simp] theorem State.advance_sp (s : State) : (s.advance).sp = s.sp := rfl
@[simp] theorem State.advance_dt (s : State) : (s.advance).dt = s.dt := rfl
@[simp] theorem State.advance_st (s : State) : (s.advance).st = s.st := rfl
@[simp] theorem State.advance_keys (s : State) : (s.advance).keys = s.keys := rfl
@[simp] theorem State.advance_fb (s : State) : (s.advance).fb = s.fb := rfl
@[simp] theorem State.advance_dirty (s : State) : (s.advance).dirty = s.dirty := rfl
@[simp] theorem State.advance_wait (s : State) : (s.advance).wait = s.wait := rfl
@[simp] theorem State.advance_klValid (s : State) : (s.advance).klValid = s.klValid := rfl
@[simp] theorem State.advance_klKey (s : State) : (s.advance).klKey = s.klKey := rfl
@[simp] theorem State.advance_fault (s : State) : (s.advance).fault = s.fault := rfl
@[simp] theorem State.advance_rnd (s : State) : (s.advance).rnd = s.rnd := rfl
@[simp] theorem State.advance_out (s : State) : (s.advance).out = s.out := rfl
@[simp] theorem State.advance_pending (s : State) : (s.advance).pending = s.pending := rfl
@[simp] theorem State.advance_draws (s : State) : (s.advance).draws = s.draws := rfl

/-! ### skipIf -/

@[simp] theorem State.skipIf_cfg (s : State) (c : Bool) : (s.skipIf c).cfg = s.cfg := rfl
@[simp] theorem State.skipIf_mem (s : State) (c : Bool) : (s.skipIf c).mem = s.mem := rfl
@[simp] theorem State.skipIf_v (s : State) (c : Bool) : (s.skipIf c).v = s.v := rfl
@[simp] theorem State.skipIf_i (s : State) (c : Bool) : (s.skipIf c).i = s.i := rfl
@[simp] theorem State.skipIf_pc (s : State) (c : Bool) : (s.skipIf c).pc = if c then s.pc + 4 else s.pc + 2 := rfl
@[simp] theorem State.skipIf_stack (s : State) (c : Bool) : (s.skipIf c).stack = s.stack := rfl
@[simp] theorem State.skipIf_sp (s : State) (c : Bool) : (s.skipIf c).sp = s.sp := rfl
@[simp] theorem State.skipIf_dt (s : State) (c : Bool) : (s.skipIf c).dt = s.dt := rfl
@[simp] theorem State.skipIf_st (s : State) (c : Bool) : (s.skipIf c).st = s.st := rfl
@[simp] theorem State.skipIf_keys (s : State) (c : Bool) : (s.skipIf c).keys = s.keys := rfl
@[simp] theorem State.skipIf_fb (s : State) (c : Bool) : (s.skipIf c).fb = s.fb := rfl
@[simp] theorem State.skipIf_dirty (s : State) (c : Bool) : (s.skipIf c).dirty = s.dirty := rfl
@[simp] theorem State.skipIf_wait (s : State) (c : Bool) : (s.skipIf c).wait = s.wait := rfl
@[simp] theorem State.skipIf_klValid (s : State) (c : Bool) : (s.skipIf c).klValid = s.klValid := rfl
@[simp] theorem State.skipIf_klKey (s : State) (c : Bool) : (s.skipIf c).klKey = s.klKey := rfl
@[simp] theorem State.skipIf_fault (s : State) (c : Bool) : (s.skipIf c).fault = s.fault := rfl
@[simp] theorem State.skipIf_rnd (s : State) (c : Bool) : (s.skipIf c).rnd = s.rnd := rfl
@[simp] theorem State.skipIf_out (s : State) (c : Bool) : (s.skipIf c).out = s.out := rfl
@[simp] theorem State.skipIf_pending (s : State) (c : Bool) : (s.skipIf c).pending = s.pending := rfl
@[simp] theorem State.skipIf_draws (s : State) (c : Bool) : (s.skipIf c).draws = s.draws := rfl

/-! ### setResultAndFlag -/

@[simp] theorem State.setResultAndFlag_cfg (s : State) (x : Reg) (b : Byte) (f : Bool) : (s.setResultAndFlag x b f).cfg = s.cfg := rfl
@[simp] theorem State.setResultAndFlag_mem (s : State) (x : Reg) (b : Byte) (f : Bool) : (s.setResultAndFlag x b f).mem = s.mem := rfl
@[simp] theorem State.setResultAndFlag_v (s : State) (x : Reg) (b : Byte) (f : Bool) : (s.setResultAndFlag x b f).v = (s.v.set (regIndex x) b).set (regIndex VF) (flagByte f) := rfl
@[simp] theorem State.setResultAndFlag_i (s : State) (x : Reg) (b : Byte) (f : Bool) : (s.setResultAndFlag x b f).i = s.i := rfl
@[simp] theorem State.setResultAndFlag_pc (s : State) (x : Reg) (b : Byte) (f : Bool) : (s.setResultAndFlag x b f).pc = s.pc := rfl
@[simp] theorem State.setResultAndFlag_stack (s : State) (x : Reg) (b : Byte) (f : Bool) : (s.setResultAndFlag x b f).stack = s.stack := rfl
@[simp] theorem State.setResultAndFlag_sp (s : State) (x : Reg) (b : Byte) (f : Bool) : (s.setResultAndFlag x b f).sp = s.sp := rfl
@[simp] theorem State.setResultAndFlag_dt (s : State) (x : Reg) (b : Byte) (f : Bool) : (s.setResultAndFlag x b f).dt = s.dt := rfl
@[simp] theorem State.setResultAndFlag_st (s : State) (x : Reg) (b : Byte) (f : Bool) : (s.setResultAndFlag x b f).st = s.st := rfl
@[simp] theorem State.setResultAndFlag_keys (s : State) (x : Reg) (b : Byte) (f : Bool) : (s.setResultAndFlag x b f).keys = s.keys := rfl
@[simp] theorem State.setResultAndFlag_fb (s : State) (x : Reg) (b : Byte) (f : Bool) : (s.setResultAndFlag x b f).fb = s.fb := rfl
@[simp] theorem State.setResultAndFlag_dirty (s : State) (x : Reg) (b : Byte) (f : Bool) : (s.setResultAndFlag x b f).dirty = s.dirty := rfl
@[simp] theorem State.setResultAndFlag_wait (s : State) (x : Reg) (b : Byte) (f : Bool) : (s.setResultAndFlag x b f).wait = s.wait := rfl
@[simp] theorem State.setResultAndFlag_klValid (s : State) (x : Reg) (b : Byte) (f : Bool) : (s.setResultAndFlag x b f).klValid = s.klValid := rfl
@[simp] theorem State.setResultAndFlag_klKey (s : State) (x : Reg) (b : Byte) (f : Bool) : (s.setResultAndFlag x b f).klKey = s.klKey := rfl
@[simp] theorem State.setResultAndFlag_fault (s : State) (x : Reg) (b : Byte) (f : Bool) : (s.setResultAndFlag x b f).fault = s.fault := rfl
@[simp] theorem State.setResultAndFlag_rnd (s : State) (x : Reg) (b : Byte) (f : Bool) : (s.setResultAndFlag x b f).rnd = s.rnd := rfl
@[simp] theorem State.setResultAndFlag_out (s : State) (x : Reg) (b : Byte) (f : Bool) : (s.setResultAndFlag x b f).out = s.out := rfl
@[simp] theorem State.setResultAndFlag_pending (s : State) (x : Reg) (b : Byte) (f : Bool) : (s.setResultAndFlag x b f).pending = s.pending := rfl
@[simp] theorem State.setResultAndFlag_draws (s : State) (x : Reg) (b : Byte) (f : Bool) : (s.setResultAndFlag x b f).draws = s.draws := rfl

/-! ### signalRedraw -/

@[simp] theorem State.signalRedraw_cfg (s : State) : (s.signalRedraw).cfg = s.cfg := rfl
@[simp] theorem State.signalRedraw_mem (s : State) : (s.signalRedraw).mem = s.mem := rfl
@[simp] theorem State.signalRedraw_v (s : State) : (s.signalRedraw).v = s.v := rfl
@[simp] theorem State.signalRedraw_i (s : State) : (s.signalRedraw).i = s.i := rfl
@[simp] theorem State.signalRedraw_pc (s : State) : (s.signalRedraw).pc = s.pc := rfl
@[simp] theorem State.signalRedraw_stack (s : State) : (s.signalRedraw).stack = s.stack := rfl
@[simp] theorem State.signalRedraw_sp (s : State) : (s.signalRedraw).sp = s.sp := rfl
@[simp] theorem State.signalRedraw_dt (s : State) : (s.signalRedraw).dt = s.dt := rfl
@[simp] theorem State.signalRedraw_st (s : State) : (s.signalRedraw).st = s.st := rfl
@[simp] theorem State.signalRedraw_keys (s : State) : (s.signalRedraw).keys = s.keys := rfl
@[simp] theorem State.signalRedraw_fb (s : State) : (s.signalRedraw).fb = s.fb := rfl
@[simp] theorem State.signalRedraw_dirty (s : State) : (s.signalRedraw).dirty = s.dirty := rfl
@[simp] theorem State.signalRedraw_wait (s : State) : (s.signalRedraw).wait = s.wait := rfl
@[simp] theorem State.signalRedraw_klValid (s : State) : (s.signalRedraw).klValid = s.klValid := rfl
@[simp] theorem State.signalRedraw_klKey (s : State) : (s.signalRedraw).klKey = s.klKey := rfl
@[simp] theorem State.signalRedraw_fault (s : State) : (s.signalRedraw).fault = s.fault := rfl
@[simp] theorem State.signalRedraw_rnd (s : State) : (s.signalRedraw).rnd = s.rnd := rfl
@[simp] theorem State.signalRedraw_out (s : State) : (s.signalRedraw).out = { s.out with signals := { s.out.signals with redraw := true } } := rfl
@[simp] theorem State.signalRedraw_pending (s : State) : (s.signalRedraw).pending = s.pending := rfl
@[simp] theorem State.signalRedraw_draws (s : State) : (s.signalRedraw).draws = s.draws := rfl

/-! ### signalAwait -/

@[simp] theorem State.signalAwait_cfg (s : State) : (s.signalAwait).cfg = s.cfg := rfl
@[simp] theorem State.signalAwait_mem (s : State) : (s.signalAwait).mem = s.mem := rfl
@[simp] theorem State.signalAwait_v (s : State) : (s.signalAwait).v = s.v := rfl
@[simp] theorem State.signalAwait_i (s : State) : (s.signalAwait).i = s.i := rfl
@[simp] theorem State.signalAwait_pc (s : State) : (s.signalAwait).pc = s.pc := rfl
@[simp] theorem State.signalAwait_stack (s : State) : (s.signalAwait).stack = s.stack := rfl
@[simp] theorem State.signalAwait_sp (s : State) : (s.signalAwait).sp = s.sp := rfl
@[simp] theorem State.signalAwait_dt (s : State) : (s.signalAwait).dt = s.dt := rfl
@[simp] theorem State.signalAwait_st (s : State) : (s.signalAwait).st = s.st := rfl
@[simp] theorem State.signalAwait_keys (s : State) : (s.signalAwait).keys = s.keys := rfl
@[simp] theorem State.signalAwait_fb (s : State) : (s.signalAwait).fb = s.fb := rfl
@[simp] theorem State.signalAwait_dirty (s : State) : (s.signalAwait).dirty = s.dirty := rfl
@[simp] theorem State.signalAwait_wait (s : State) : (s.signalAwait).wait = s.wait := rfl
@[simp] theorem State.signalAwait_klValid (s : State) : (s.signalAwait).klValid = s.klValid := rfl
@[simp] theorem State.signalAwait_klKey (s : State) : (s.signalAwait).klKey = s.klKey := rfl
@[simp] theorem State.signalAwait_fault (s : State) : (s.signalAwait).fault = s.fault := rfl
@[simp] theorem State.signalAwait_rnd (s : State) : (s.signalAwait).rnd = s.rnd := rfl
@[simp] theorem State.signalAwait_out (s : State) : (s.signalAwait).out = { s.out with signals := { s.out.signals with await := true } } := rfl
@[simp] theorem State.signalAwait_pending (s : State) : (s.signalAwait).pending = s.pending := rfl
@[simp] theorem State.signalAwait_draws (s : State) : (s.signalAwait).draws = s.draws := rfl

/-! ### signalUnrecognized -/

@[simp] theorem State.signalUnrecognized_cfg (s : State) : (s.signalUnrecognized).cfg = s.cfg := rfl
@[simp] theorem State.signalUnrecognized_mem (s : State) : (s.signalUnrecognized).mem = s.mem := rfl
@[simp] theorem State.signalUnrecognized_v (s : State) : (s.signalUnrecognized).v = s.v := rfl
@[simp] theorem State.signalUnrecognized_i (s : State) : (s.signalUnrecognized).i = s.i := rfl
@[simp] theorem State.signalUnrecognized_pc (s : State) : (s.signalUnrecognized).pc = s.pc := rfl
@[simp] theorem State.signalUnrecognized_stack (s : State) : (s.signalUnrecognized).stack = s.stack := rfl
@[simp] theorem State.signalUnrecognized_sp (s : State) : (s.signalUnrecognized).sp = s.sp := rfl
@[simp] theorem State.signalUnrecognized_dt (s : State) : (s.signalUnrecognized).dt = s.dt := rfl
@[simp] theorem State.signalUnrecognized_st (s : State) : (s.signalUnrecognized).st = s.st := rfl
@[simp] theorem State.signalUnrecognized_keys (s : State) : (s.signalUnrecognized).keys = s.keys := rfl
@[simp] theorem State.signalUnrecognized_fb (s : State) : (s.signalUnrecognized).fb = s.fb := rfl
@[simp] theorem State.signalUnrecognized_dirty (s : State) : (s.signalUnrecognized).dirty = s.dirty := rfl
@[simp] theorem State.signalUnrecognized_wait (s : State) : (s.signalUnrecognized).wait = s.wait := rfl
@[simp] theorem State.signalUnrecognized_klValid (s : State) : (s.signalUnrecognized).klValid = s.klValid := rfl
@[simp] theorem State.signalUnrecognized_klKey (s : State) : (s.signalUnrecognized).klKey = s.klKey := rfl
@[simp] theorem State.signalUnrecognized_fault (s : State) : (s.signalUnrecognized).fault = s.fault := rfl
@[simp] theorem State.signalUnrecognized_rnd (s : State) : (s.signalUnrecognized).rnd = s.rnd := rfl
@[simp] theorem State.signalUnrecognized_out (s : State) : (s.signalUnrecognized).out = { s.out with signals := { s.out.signals with unrecognized := true } } := rfl
@[simp] theorem State.signalUnrecognized_pending (s : State) : (s.signalUnrecognized).pending = s.pending := rfl
@[simp] theorem State.signalUnrecognized_draws (s : State) : (s.signalUnrecognized).draws = s.draws := rfl

/-! ### raise -/

@[simp] theorem State.raise_cfg (s : State) (e : Raise) : (s.raise e).cfg = s.cfg := rfl
@[simp] theorem State.raise_mem (s : State) (e : Raise) : (s.raise e).mem = s.mem := rfl
@[simp] theorem State.raise_v (s : State) (e : Raise) : (s.raise e).v = s.v := rfl
@[simp] theorem State.raise_i (s : State) (e : Raise) : (s.raise e).i = s.i := rfl
@[simp] theorem State.raise_pc (s : State) (e : Raise) : (s.raise e).pc = s.pc := rfl
@[simp] theorem State.raise_stack (s : State) (e : Raise) : (s.raise e).stack = s.stack := rfl
@[simp] theorem State.raise_sp (s : State) (e : Raise) : (s.raise e).sp = s.sp := rfl
@[simp] theorem State.raise_dt (s : State) (e : Raise) : (s.raise e).dt = s.dt := rfl
@[simp] theorem State.raise_st (s : State) (e : Raise) : (s.raise e).st = s.st := rfl
@[simp] theorem State.raise_keys (s : State) (e : Raise) : (s.raise e).keys = s.keys := rfl
@[simp] theorem State.raise_fb (s : State) (e : Raise) : (s.raise e).fb = s.fb := rfl
@[simp] theorem State.raise_dirty (s : State) (e : Raise) : (s.raise e).dirty = s.dirty := rfl
@[simp] theorem State.raise_wait (s : State) (e : Raise) : (s.raise e).wait = s.wait := rfl
@[simp] theorem State.raise_klValid (s : State) (e : Raise) : (s.raise e).klValid = s.klValid := rfl
@[simp] theorem State.raise_klKey (s : State) (e : Raise) : (s.raise e).klKey = s.klKey := rfl
@[simp] theorem State.raise_fault (s : State) (e : Raise) : (s.raise e).fault = some e.fault := rfl
@[simp] theorem State.raise_rnd (s : State) (e : Raise) : (s.raise e).rnd = s.rnd := rfl
@[simp] theorem State.raise_out (s : State) (e : Raise) : (s.raise e).out = { info := e.info } := rfl
@[simp] theorem State.raise_pending (s : State) (e : Raise) : (s.raise e).pending = s.pending := rfl
@[simp] theorem State.raise_draws (s : State) (e : Raise) : (s.raise e).draws = s.draws := rfl

/-! ### clearOut -/

@[simp] theorem State.clearOut_cfg (s : State) : (s.clearOut).cfg = s.cfg := rfl
@[simp] theorem State.clearOut_mem (s : State) : (s.clearOut).mem = s.mem := rfl
@[simp] theorem State.clearOut_v (s : State) : (s.clearOut).v = s.v := rfl
@[simp] theorem State.clearOut_i (s : State) : (s.clearOut).i = s.i := rfl
@[simp] theorem State.clearOut_pc (s : State) : (s.clearOut).pc = s.pc := rfl
@[simp] theorem State.clearOut_stack (s : State) : (s.clearOut).stack = s.stack := rfl
@[simp] theorem State.clearOut_sp (s : State) : (s.clearOut).sp = s.sp := rfl
@[simp] theorem State.clearOut_dt (s : State) : (s.clearOut).dt = s.dt := rfl
@[simp] theorem State.clearOut_st (s : State) : (s.clearOut).st = s.st := rfl
@[simp] theorem State.clearOut_keys (s : State) : (s.clearOut).keys = s.keys := rfl
@[simp] theorem State.clearOut_fb (s : State) : (s.clearOut).fb = s.fb := rfl
@[simp] theorem State.clearOut_dirty (s : State) : (s.clearOut).dirty = s.dirty := rfl
@[simp] theorem State.clearOut_wait (s : State) : (s.clearOut).wait = s.wait := rfl
@[simp] theorem State.clearOut_klValid (s : State) : (s.clearOut).klValid = s.klValid := rfl
@[simp] theorem State.clearOut_klKey (s : State) : (s.clearOut).klKey = s.klKey := rfl
@[simp] theorem State.clearOut_fault (s : State) : (s.clearOut).fault = s.fault := rfl
@[simp] theorem State.clearOut_rnd (s : State) : (s.clearOut).rnd = s.rnd := rfl
@[simp] theorem State.clearOut_out (s : State) : (s.clearOut).out = {} := rfl
@[simp] theorem State.clearOut_pending (s : State) : (s.clearOut).pending = s.pending := rfl
@[simp] theorem State.clearOut_draws (s : State) : (s.clearOut).draws = s.draws := rfl

/-! ### beginStep -/

@[simp] theorem State.beginStep_cfg (s : State) (r : Option Byte) : (s.beginStep r).cfg = s.cfg := rfl
@[simp] theorem State.beginStep_mem (s : State) (r : Option Byte) : (s.beginStep r).mem = s.mem := rfl
@[simp] theorem State.beginStep_v (s : State) (r : Option Byte) : (s.beginStep r).v = s.v := rfl
@[simp] theorem State.beginStep_i (s : State) (r : Option Byte) : (s.beginStep r).i = s.i := rfl
@[simp] theorem State.beginStep_pc (s : State) (r : Option Byte) : (s.beginStep r).pc = s.pc := rfl
@[simp] theorem State.beginStep_stack (s : State) (r : Option Byte) : (s.beginStep r).stack = s.stack := rfl
@[simp] theorem State.beginStep_sp (s : State) (r : Option Byte) : (s.beginStep r).sp = s.sp := rfl
@[simp] theorem State.beginStep_dt (s : State) (r : Option Byte) : (s.beginStep r).dt = s.dt := rfl
@[simp] theorem State.beginStep_st (s : State) (r : Option Byte) : (s.beginStep r).st = s.st := rfl
@[simp] theorem State.beginStep_keys (s : State) (r : Option Byte) : (s.beginStep r).keys = s.keys := rfl
@[simp] theorem State.beginStep_fb (s : State) (r : Option Byte) : (s.beginStep r).fb = s.fb := rfl
@[simp] theorem State.beginStep_dirty (s : State) (r : Option Byte) : (s.beginStep r).dirty = s.dirty := rfl
@[simp] theorem State.beginStep_wait (s : State) (r : Option Byte) : (s.beginStep r).wait = s.wait := rfl
@[simp] theorem State.beginStep_klValid (s : State) (r : Option Byte) : (s.beginStep r).klValid = s.klValid := rfl
@[simp] theorem State.beginStep_klKey (s : State) (r : Option Byte) : (s.beginStep r).klKey = s.klKey := rfl
@[simp] theorem State.beginStep_fault (s : State) (r : Option Byte) : (s.beginStep r).fault = s.fault := rfl
@[simp] theorem State.beginStep_rnd (s : State) (r : Option Byte) : (s.beginStep r).rnd = r := rfl
@[simp] theorem State.beginStep_out (s : State) (r : Option Byte) : (s.beginStep r).out = {} := rfl
@[simp] theorem State.beginStep_pending (s : State) (r : Option Byte) : (s.beginStep r).pending = s.pending := rfl
@[simp] theorem State.beginStep_draws (s : State) (r : Option Byte) : (s.beginStep r).draws = s.draws := rfl

/-! ### resetOf and coreReset -/

@[simp] theorem State.resetOf_cfg (c : Config) : (State.resetOf c).cfg = c := rfl
@[simp] theorem State.resetOf_mem (c : Config) : (State.resetOf c).mem = [] := rfl
@[simp] theorem State.resetOf_v (c : Config) : (State.resetOf c).v = Vector.replicate 16 0 := rfl
@[simp] theorem State.resetOf_i (c : Config) : (State.resetOf c).i = 0 := rfl
@[simp] theorem State.resetOf_pc (c : Config) : (State.resetOf c).pc = c.resetPc := rfl
@[simp] theorem State.resetOf_stack (c : Config) : (State.resetOf c).stack = Vector.replicate 16 0 := rfl
@[simp] theorem State.resetOf_sp (c : Config) : (State.resetOf c).sp = 0 := rfl
@[simp] theorem State.resetOf_dt (c : Config) : (State.resetOf c).dt = 0 := rfl
@[simp] theorem State.resetOf_st (c : Config) : (State.resetOf c).st = 0 := rfl
@[simp] theorem State.resetOf_keys (c : Config) : (State.resetOf c).keys = 0 := rfl
@[simp] theorem State.resetOf_fb (c : Config) : (State.resetOf c).fb = Vector.replicate 32 0 := rfl
@[simp] theorem State.resetOf_dirty (c : Config) : (State.resetOf c).dirty = false := rfl
@[simp] theorem State.resetOf_wait (c : Config) : (State.resetOf c).wait = false := rfl
@[simp] theorem State.resetOf_klValid (c : Config) : (State.resetOf c).klValid = false := rfl
@[simp] theorem State.resetOf_klKey (c : Config) : (State.resetOf c).klKey = 0 := rfl
@[simp] theorem State.resetOf_fault (c : Config) : (State.resetOf c).fault = none := rfl
@[simp] theorem State.resetOf_rnd (c : Config) : (State.resetOf c).rnd = none := rfl
@[simp] theorem State.resetOf_out (c : Config) : (State.resetOf c).out = {} := rfl
@[simp] theorem State.resetOf_pending (c : Config) : (State.resetOf c).pending = [] := rfl
@[simp] theorem State.resetOf_draws (c : Config) : (State.resetOf c).draws = 0 := rfl

@[simp] theorem State.coreReset_cfg (s : State) : s.coreReset.cfg = s.cfg := rfl
@[simp] theorem State.coreReset_mem (s : State) : s.coreReset.mem = [] := rfl
@[simp] theorem State.coreReset_v (s : State) : s.coreReset.v = Vector.replicate 16 0 := rfl
@[simp] theorem State.coreReset_i (s : State) : s.coreReset.i = 0 := rfl
@[simp] theorem State.coreReset_pc (s : State) : s.coreReset.pc = s.cfg.resetPc := rfl
@[simp] theorem State.coreReset_stack (s : State) : s.coreReset.stack = Vector.replicate 16 0 := rfl
@[simp] theorem State.coreReset_sp (s : State) : s.coreReset.sp = 0 := rfl
@[simp] theorem State.coreReset_dt (s : State) : s.coreReset.dt = 0 := rfl
@[simp] theorem State.coreReset_st (s : State) : s.coreReset.st = 0 := rfl
@[simp] theorem State.coreReset_keys (s : State) : s.coreReset.keys = 0 := rfl
@[simp] theorem State.coreReset_fb (s : State) : s.coreReset.fb = Vector.replicate 32 0 := rfl
@[simp] theorem State.coreReset_dirty (s : State) : s.coreReset.dirty = false := rfl
@[simp] theorem State.coreReset_wait (s : State) : s.coreReset.wait = false := rfl
@[simp] theorem State.coreReset_klValid (s : State) : s.coreReset.klValid = false := rfl
@[simp] theorem State.coreReset_klKey (s : State) : s.coreReset.klKey = 0 := rfl
@[simp] theorem State.coreReset_fault (s : State) : s.coreReset.fault = none := rfl
@[simp] theorem State.coreReset_rnd (s : State) : s.coreReset.rnd = s.rnd := rfl
@[simp] theorem State.coreReset_out (s : State) : s.coreReset.out = {} := rfl
@[simp] theorem State.coreReset_pending (s : State) : s.coreReset.pending = s.pending := rfl
@[simp] theorem State.coreReset_draws (s : State) : s.coreReset.draws = s.draws := rfl

/-! ### Registers -/

theorem regIndex_inj {x y : Reg} : regIndex x = regIndex y ↔ x = y := by
  constructor
  · intro h
    exact BitVec.eq_of_toNat_eq (congrArg Fin.val h)
  · exact fun h => h ▸ rfl

@[simp] theorem State.reg_setReg (s : State) (x y : Reg) (b : Byte) :
    (s.setReg x b).reg y = if x = y then b else s.reg y := by
  have h : (regIndex x).val = (regIndex y).val ↔ x = y := by
    rw [← regIndex_inj, Fin.ext_iff]
  simp only [State.reg, State.setReg_v, Fin.getElem_fin, Vector.getElem_set, h]

@[simp] theorem State.reg_setPc (s : State) (p : Word) (y : Reg) : (s.setPc p).reg y = s.reg y := rfl
@[simp] theorem State.reg_advance (s : State) (y : Reg) : (s.advance).reg y = s.reg y := rfl
@[simp] theorem State.reg_skipIf (s : State) (c : Bool) (y : Reg) : (s.skipIf c).reg y = s.reg y := rfl
@[simp] theorem State.reg_signalRedraw (s : State) (y : Reg) : (s.signalRedraw).reg y = s.reg y := rfl
@[simp] theorem State.reg_signalAwait (s : State) (y : Reg) : (s.signalAwait).reg y = s.reg y := rfl
@[simp] theorem State.reg_signalUnrecognized (s : State) (y : Reg) : (s.signalUnrecognized).reg y = s.reg y := rfl
@[simp] theorem State.reg_raise (s : State) (e : Raise) (y : Reg) : (s.raise e).reg y = s.reg y := rfl
@[simp] theorem State.reg_clearOut (s : State) (y : Reg) : (s.clearOut).reg y = s.reg y := rfl
@[simp] theorem State.reg_beginStep (s : State) (r : Option Byte) (y : Reg) : (s.beginStep r).reg y = s.reg y := rfl

/-- What a result-and-flag write leaves in each register (R87): the flag in `VF` whatever `x` is. -/
@[simp] theorem State.reg_setResultAndFlag (s : State) (x y : Reg) (b : Byte) (f : Bool) :
    (s.setResultAndFlag x b f).reg y = if VF = y then flagByte f else if x = y then b else s.reg y := by
  simp only [State.setResultAndFlag, State.reg_setReg]

end Sys2Proof.Machine
end

