-- ==== Sys2Proof/Laws/Ops.lean ====
section
/-! SUPPORT. One lemma per shared operation that says once everything it can do; callers cite these instead of unfolding. -/

namespace Sys2Proof.Machine

/-! ### The range check and what follows it -/

theorem guardRange_ok {α : Type} {a n : Nat} (x : α) (h : a + n ≤ memSize) : guardRange a n x = .ok x := if_pos h

theorem guardRange_error {α : Type} {a n : Nat} (x : α) (h : memSize < a + n) :
    guardRange a n x = .error ⟨.addressOutOfRange, some (max a memSize)⟩ := if_neg (Nat.not_le.2 h)

/-- Either the range lies in `MEM` and the result is given, or the fault is. -/
theorem guardRange_cases {α : Type} (a n : Nat) (x : α) :
    (a + n ≤ memSize ∧ guardRange a n x = .ok x) ∨
      (memSize < a + n ∧ guardRange a n x = .error ⟨.addressOutOfRange, some (max a memSize)⟩) := by
  rcases Nat.lt_or_ge memSize (a + n) with h | h
  · exact .inr ⟨h, guardRange_error x h⟩
  · exact .inl ⟨h, guardRange_ok x h⟩

@[simp] theorem State.orRaise_ok {α : Type} (s : State) (a : α) (k : α → State) : s.orRaise (.ok a) k = k a := rfl

@[simp] theorem State.orRaise_error {α : Type} (s : State) (e : Raise) (k : α → State) :
    s.orRaise (.error e) k = s.raise e := rfl

/-- A checked operation either goes on or takes its fault in the state at the start (R86). -/
theorem State.orRaise_cases {α : Type} (s : State) (r : Except Raise α) (k : α → State) :
    (∃ a, r = .ok a ∧ s.orRaise r k = k a) ∨ (∃ e, r = .error e ∧ s.orRaise r k = s.raise e) := by
  cases r with
  | ok a => exact .inl ⟨a, rfl, rfl⟩
  | error e => exact .inr ⟨e, rfl, rfl⟩

/-- A block read of bytes in range: each byte is memory's. -/
theorem memRead_ok {c : Config} {m : Memory} {a n : Nat} (h : a + n ≤ memSize) :
    memRead c m a n = .ok ((List.range n).map fun k => m.read c (a + k)) := guardRange_ok _ h

/-- Fetch (R81): the word at `PC`, or the fault when `PC > 4094`. -/
theorem fetch_cases (s : State) :
    (s.pc.toNat + 2 ≤ memSize ∧ fetch s = .ok (s.mem.wordAt s.cfg s.pc.toNat)) ∨
      (memSize < s.pc.toNat + 2 ∧ fetch s = .error ⟨.addressOutOfRange, some (max s.pc.toNat memSize)⟩) :=
  guardRange_cases _ _ _

/-- What a store at `I` does: all the bytes and the advance, or the fault and nothing (R47). -/
theorem State.storeAtI_cases (s : State) (bs : List Byte) :
    (s.i.toNat + bs.length ≤ memSize ∧
        s.storeAtI bs = { s with mem := s.mem.writeBytes s.cfg s.i.toNat bs, pc := s.pc + 2 }) ∨
      (memSize < s.i.toNat + bs.length ∧
        s.storeAtI bs = s.raise ⟨.addressOutOfRange, some (max s.i.toNat memSize)⟩) := by
  unfold State.storeAtI memWrite
  rcases guardRange_cases s.i.toNat bs.length (s.mem.writeBytes s.cfg s.i.toNat bs) with ⟨h, e⟩ | ⟨h, e⟩
  · exact .inl ⟨h, by rw [e]; rfl⟩
  · exact .inr ⟨h, by rw [e]; rfl⟩

/-! ### The call stack -/

/-- A push below the bound. -/
theorem State.push_ok (s : State) (w : Word) (h : s.sp.val < 16) :
    s.push w = .ok { s with stack := s.stack.set s.sp.val w h, sp := ⟨s.sp.val + 1, Nat.succ_lt_succ h⟩ } := dif_pos h

/-- A push on a full stack. -/
theorem State.push_error (s : State) (w : Word) (h : s.sp.val = 16) : s.push w = .error ⟨.stackOverflow, none⟩ :=
  dif_neg (by omega)

/-- A pop of an empty stack. -/
theorem State.pop_error (s : State) (h : s.sp.val = 0) : s.pop = .error ⟨.stackUnderflow, none⟩ := if_pos h

/-- A pop of a stack that holds an entry. -/
theorem State.pop_ok (s : State) (h : s.sp.val ≠ 0) :
    s.pop = .ok ({ s with sp := ⟨s.sp.val - 1, by omega⟩ }, s.stack[s.sp.val - 1]) := if_neg h

/-! ### Pixels -/

/-- What a flip does to every pixel: the one at the place changes, every other stays. -/
@[simp] theorem Framebuffer.pixel_flip (fb : Framebuffer) (x x' : Fin 64) (y y' : Fin 32) :
    (fb.flip x y).pixel x' y' = (fb.pixel x' y' ^^ decide (x = x' ∧ y = y')) := by
  simp only [Framebuffer.pixel, Framebuffer.flip, Fin.getElem_fin, Vector.getElem_set]
  by_cases hy : y = y'
  · subst hy
    simp [Fin.ext_iff, eq_comm]
  · simp [Fin.val_ne_of_ne hy, hy]

@[simp] theorem Framebuffer.pixel_clear (x : Fin 64) (y : Fin 32) : Framebuffer.clear.pixel x y = false := by
  simp [Framebuffer.pixel, Framebuffer.clear]

/-- Framebuffers with the same pixels are equal data. -/
theorem Framebuffer.ext_pixel {fb fb' : Framebuffer} (h : ∀ x y, fb.pixel x y = fb'.pixel x y) : fb = fb' := by
  refine Vector.ext fun y hy => BitVec.eq_of_getLsbD_eq fun x hx => ?_
  exact h ⟨x, hx⟩ ⟨y, hy⟩

end Sys2Proof.Machine
end

