-- ==== Sys2Proof/Laws/Events.lean ====
section
/-! SUPPORT. The operations of the events other than STEP. -/

namespace Sys2Proof.Machine

/-- A timer counts toward zero and never below (R183). -/
theorem toNat_countDown (b : Byte) : (countDown b).toNat = b.toNat - 1 := by
  unfold countDown
  split
  · next h => simp [h]
  · next h =>
    have hb := b.isLt
    have h0 : b.toNat ≠ 0 := fun h' => h (BitVec.eq_of_toNat_eq h')
    rw [BitVec.toNat_sub, show (1 : Byte).toNat = 1 from rfl]
    omega

/-- Writing one key's bit: that bit, and no other (R185). -/
theorem getLsbD_setKeyBit (keys : BitVec 16) (k j : BitVec 4) (held : Bool) :
    (setKeyBit keys k held).getLsbD j.toNat = if j = k then held else keys.getLsbD j.toNat := by
  have hj : j.toNat < 16 := j.isLt
  have e : j.toNat = k.toNat ↔ j = k := BitVec.toNat_eq.symm
  unfold setKeyBit
  by_cases h : j = k
  · cases held <;> simp [h, k.isLt]
  · cases held <;> simp [h, e, hj]

/-- The image lies at 0x200 and upward, and everything else is at its reset contents (R201). -/
theorem State.loadImage_fits (s : State) {image : List Byte} (h : imageFits image = true) :
    s.loadImage image =
      { s.coreReset with mem := Memory.writeBytes s.cfg [] progBase image, out := { load := some .ok } } := if_pos h

theorem State.loadImage_oversize (s : State) {image : List Byte} (h : imageFits image = false) :
    s.loadImage image = { s with out := { load := some .oversizeProgram } } := if_neg (by rw [h]; decide)

/-- An image that fits ends inside memory (R202). -/
theorem imageFits_bound {image : List Byte} (h : imageFits image = true) : progBase + image.length ≤ memSize := by
  simp only [imageFits, decide_eq_true_eq, maxImage] at h
  simp only [progBase, memSize]
  omega

/-- A loaded image leaves memory in canonical form. -/
theorem State.loadImage_wf (s : State) {image : List Byte} (h : imageFits image = true) : (s.loadImage image).mem.wf s.cfg := by
  rw [State.loadImage_fits s h]
  exact Memory.writeBytes_wf rfl image (imageFits_bound h)

end Sys2Proof.Machine
end

