-- ==== Sys2Proof/Laws/Exec.lean ====
section
/-! SUPPORT. What the meanings that check something can do: each completes with one stated state or takes one stated fault. The
other meanings are their own description. Also the three ways a STEP goes, and the events as functions of the state. -/

namespace Sys2Proof.Machine

theorem execRet_cases (s : State) :
    (∃ _h : s.sp.val ≠ 0, execRet s = .next { s with sp := ⟨s.sp.val - 1, by omega⟩, pc := s.stack[s.sp.val - 1] }) ∨
      (s.sp.val = 0 ∧ execRet s = .next (s.raise ⟨.stackUnderflow, none⟩)) := by
  by_cases h : s.sp.val = 0
  · exact .inr ⟨h, by rw [execRet, State.pop_error s h]; rfl⟩
  · exact .inl ⟨h, by rw [execRet, State.pop_ok s h]; rfl⟩

theorem execCall_cases (nnn : BitVec 12) (s : State) :
    (∃ h : s.sp.val < 16, execCall nnn s = .next { s with
        stack := s.stack.set s.sp.val (s.pc + 2) h, sp := ⟨s.sp.val + 1, Nat.succ_lt_succ h⟩, pc := zext12 nnn }) ∨
      (s.sp.val = 16 ∧ execCall nnn s = .next (s.raise ⟨.stackOverflow, none⟩)) := by
  by_cases h : s.sp.val < 16
  · exact .inl ⟨h, by rw [execCall, State.push_ok s _ h]; rfl⟩
  · exact .inr ⟨by omega, by rw [execCall, State.push_error s _ (by omega)]; rfl⟩

/-- The two readings of ADD Vx, byte that the configuration chooses between (R101). -/
theorem execAddByte_cases (x : Reg) (nn : Byte) (s : State) :
    (s.cfg.addImmWritesVf = true ∧ execAddByte x nn s =
        .next (s.setResultAndFlag x (s.reg x + nn) (carryOut (s.reg x) nn)).advance) ∨
      (s.cfg.addImmWritesVf = false ∧ execAddByte x nn s = .next (s.setReg x (s.reg x + nn)).advance) := by
  unfold execAddByte
  cases s.cfg.addImmWritesVf
  · exact .inr ⟨rfl, rfl⟩
  · exact .inl ⟨rfl, rfl⟩

theorem execRnd_cases (x : Reg) (nn : Byte) (s : State) :
    (∃ b, s.rnd = some b ∧ execRnd x nn s = .next (s.setReg x (b &&& nn)).advance) ∨
      (s.rnd = none ∧ execRnd x nn s = .next (s.raise ⟨.entropyUnavailable, none⟩)) := by
  unfold execRnd drawByte
  cases h : s.rnd with
  | some b => exact .inl ⟨b, rfl, rfl⟩
  | none => exact .inr ⟨rfl, rfl⟩

theorem execLdB_cases (x : Reg) (s : State) :
    (s.i.toNat + 3 ≤ memSize ∧ execLdB x s =
        .next { s with mem := s.mem.writeBytes s.cfg s.i.toNat (bcdDigits (s.reg x)), pc := s.pc + 2 }) ∨
      (memSize < s.i.toNat + 3 ∧ execLdB x s = .next (s.raise ⟨.addressOutOfRange, some (max s.i.toNat memSize)⟩)) := by
  rcases s.storeAtI_cases (bcdDigits (s.reg x)) with ⟨h, e⟩ | ⟨h, e⟩
  · exact .inl ⟨h, congrArg Host.Outcome.next e⟩
  · exact .inr ⟨h, congrArg Host.Outcome.next e⟩

/-- The block dump stores `X + 1` bytes (R124). -/
theorem State.length_regsUpTo (s : State) (x : Reg) : (s.regsUpTo x).length = x.toNat + 1 := by
  have := x.isLt
  simp only [State.regsUpTo, List.length_take, Vector.length_toList]
  omega

theorem execStoreRegs_cases (x : Reg) (s : State) :
    (s.i.toNat + (x.toNat + 1) ≤ memSize ∧ execStoreRegs x s =
        .next { s with mem := s.mem.writeBytes s.cfg s.i.toNat (s.regsUpTo x), pc := s.pc + 2 }) ∨
      (memSize < s.i.toNat + (x.toNat + 1) ∧
        execStoreRegs x s = .next (s.raise ⟨.addressOutOfRange, some (max s.i.toNat memSize)⟩)) := by
  rcases s.storeAtI_cases (s.regsUpTo x) with ⟨h, e⟩ | ⟨h, e⟩
  · exact .inl ⟨by rwa [State.length_regsUpTo] at h, congrArg Host.Outcome.next e⟩
  · exact .inr ⟨by rwa [State.length_regsUpTo] at h, congrArg Host.Outcome.next e⟩

theorem execLoadRegs_cases (x : Reg) (s : State) :
    (s.i.toNat + (x.toNat + 1) ≤ memSize ∧ execLoadRegs x s = .next { s with
        v := loadBlock s.v x ((List.range (x.toNat + 1)).map fun k => s.mem.read s.cfg (s.i.toNat + k)), pc := s.pc + 2 }) ∨
      (memSize < s.i.toNat + (x.toNat + 1) ∧
        execLoadRegs x s = .next (s.raise ⟨.addressOutOfRange, some (max s.i.toNat memSize)⟩)) := by
  rcases Nat.lt_or_ge memSize (s.i.toNat + (x.toNat + 1)) with h | h
  · exact .inr ⟨h, by rw [execLoadRegs, memRead, guardRange_error _ h]; rfl⟩
  · exact .inl ⟨h, by rw [execLoadRegs, memRead_ok h]; rfl⟩

/-- What a DRW that completes leaves. -/
def State.drawn (s : State) (x y : Reg) (n : BitVec 4) : State :=
  let t := blit s.fb ((List.range (spriteRows s.cfg n)).map fun r => s.mem.read s.cfg (s.i.toNat + r)) (s.reg x) (s.reg y)
  (({ s with fb := t.fb, dirty := true } : State).setReg VF (flagByte t.collision)).signalRedraw.advance

theorem execDrw_cases (x y : Reg) (n : BitVec 4) (s : State) :
    (s.i.toNat + spriteRows s.cfg n ≤ memSize ∧ execDrw x y n s = .next (s.drawn x y n)) ∨
      (memSize < s.i.toNat + spriteRows s.cfg n ∧
        execDrw x y n s = .next (s.raise ⟨.addressOutOfRange, some (max s.i.toNat memSize)⟩)) := by
  rcases Nat.lt_or_ge memSize (s.i.toNat + spriteRows s.cfg n) with h | h
  · exact .inr ⟨h, by rw [execDrw, memRead, guardRange_error _ h]; rfl⟩
  · exact .inl ⟨h, by rw [execDrw, memRead_ok h]; rfl⟩

theorem execLdVxK_cases (x : Reg) (s : State) :
    ((s.wait = true ∧ s.klValid = true) ∧ execLdVxK x s =
        .next { (s.setReg x (zext4 s.klKey)).advance with klValid := false, wait := false }) ∨
      (¬ (s.wait = true ∧ s.klValid = true) ∧ execLdVxK x s = .next { s.signalAwait with wait := true }) := by
  unfold execLdVxK
  by_cases h : s.wait = true ∧ s.klValid = true
  · exact .inl ⟨h, by rw [h.1, h.2]; rfl⟩
  · exact .inr ⟨h, by rw [if_neg (by rwa [Bool.and_eq_true])]; rfl⟩

/-! ### The STEP event (R80) -/

/-- A STEP does nothing while a fault is held (R85). -/
theorem stepEvent_faulted (rnd : Option Byte) (s : State) (h : s.fault ≠ none) : stepEvent rnd s = .next (s.beginStep rnd) :=
  if_pos (Option.isSome_iff_ne_none.2 h)

/-- A STEP whose fetch is out of range takes the fault (R81). -/
theorem stepEvent_fetchFault (rnd : Option Byte) (s : State) (h : s.fault = none) (hp : memSize < s.pc.toNat + 2) :
    stepEvent rnd s =
      .next ((s.beginStep rnd).raise ⟨.addressOutOfRange, some (max s.pc.toNat memSize)⟩) := by
  unfold stepEvent
  simp only [State.beginStep_fault, h, Option.isSome_none, Bool.false_eq_true, if_false]
  rw [fetch, guardRange_error _ (by simpa using hp)]
  rfl

/-- A STEP whose fetch is in range decodes and executes the word at `PC` (R80). -/
theorem stepEvent_fetched (rnd : Option Byte) (s : State) (h : s.fault = none) (hp : s.pc.toNat + 2 ≤ memSize) :
    stepEvent rnd s = execWord (s.mem.wordAt s.cfg s.pc.toNat) (s.beginStep rnd) := by
  unfold stepEvent
  simp only [State.beginStep_fault, h, Option.isSome_none, Bool.false_eq_true, if_false]
  rw [fetch, guardRange_ok _ (by simpa using hp)]
  rfl

/-- The three ways a STEP goes. -/
theorem stepEvent_cases (rnd : Option Byte) (s : State) :
    (s.fault ≠ none ∧ stepEvent rnd s = .next (s.beginStep rnd)) ∨
      (s.fault = none ∧ memSize < s.pc.toNat + 2 ∧ stepEvent rnd s =
        .next ((s.beginStep rnd).raise ⟨.addressOutOfRange, some (max s.pc.toNat memSize)⟩)) ∨
      (s.fault = none ∧ s.pc.toNat + 2 ≤ memSize ∧
        stepEvent rnd s = execWord (s.mem.wordAt s.cfg s.pc.toNat) (s.beginStep rnd)) := by
  by_cases h : s.fault = none
  · rcases Nat.lt_or_ge memSize (s.pc.toNat + 2) with hp | hp
    · exact .inr (.inl ⟨h, hp, stepEvent_fetchFault rnd s h hp⟩)
    · exact .inr (.inr ⟨h, hp, stepEvent_fetched rnd s h hp⟩)
  · exact .inl ⟨h, stepEvent_faulted rnd s h⟩

/-- An executed word is an instruction's meaning, or the signalled no-operation (R83). -/
theorem execWord_cases (w : Word) (s : State) :
    (∃ i, decode w = .ok i ∧ execWord w s = exec i s) ∨
      (∃ e, decode w = .error e ∧ execWord w s = .next s.signalUnrecognized) := by
  unfold execWord
  cases h : decode w with
  | ok i => exact .inl ⟨i, rfl, rfl⟩
  | error e => exact .inr ⟨e, rfl, rfl⟩

end Sys2Proof.Machine
end

