-- ==== Sys2Proof/Laws/PerInstr.lean ====
section
/-! SUPPORT. A fact of every instruction as syntax, one lemma per constructor: its encoding belongs to its own row of
spec/opcode_table.json (30_encoding.md rule R67). -/

namespace Sys2Proof.Laws.EncodingInRow

/-- The encoded word has the bits the instruction's table row fixes. -/
def Statement (i : Instr) : Prop := i.row.matches (encode i) = true

theorem cls : Statement .cls :=
  beq_iff_eq.2 ((formatXB_and_selector _ _ _).trans rfl)

theorem ret : Statement .ret :=
  beq_iff_eq.2 ((formatXB_and_selector _ _ _).trans rfl)

theorem jp (nnn : BitVec 12) : Statement (.jp nnn) :=
  beq_iff_eq.2 ((formatA_and _ _).trans rfl)

theorem call (nnn : BitVec 12) : Statement (.call nnn) :=
  beq_iff_eq.2 ((formatA_and _ _).trans rfl)

theorem seByte (x : Reg) (nn : Byte) : Statement (.seByte x nn) :=
  beq_iff_eq.2 ((formatXB_and_family _ _ _).trans rfl)

theorem sneByte (x : Reg) (nn : Byte) : Statement (.sneByte x nn) :=
  beq_iff_eq.2 ((formatXB_and_family _ _ _).trans rfl)

theorem seReg (x y : Reg) : Statement (.seReg x y) :=
  beq_iff_eq.2 ((formatXYN_and_family _ _ _ _).trans rfl)

theorem ldByte (x : Reg) (nn : Byte) : Statement (.ldByte x nn) :=
  beq_iff_eq.2 ((formatXB_and_family _ _ _).trans rfl)

theorem addByte (x : Reg) (nn : Byte) : Statement (.addByte x nn) :=
  beq_iff_eq.2 ((formatXB_and_family _ _ _).trans rfl)

theorem ldReg (x y : Reg) : Statement (.ldReg x y) :=
  beq_iff_eq.2 ((formatXYN_and_selector _ _ _ _).trans rfl)

theorem orReg (x y : Reg) : Statement (.orReg x y) :=
  beq_iff_eq.2 ((formatXYN_and_selector _ _ _ _).trans rfl)

theorem andReg (x y : Reg) : Statement (.andReg x y) :=
  beq_iff_eq.2 ((formatXYN_and_selector _ _ _ _).trans rfl)

theorem xorReg (x y : Reg) : Statement (.xorReg x y) :=
  beq_iff_eq.2 ((formatXYN_and_selector _ _ _ _).trans rfl)

theorem addReg (x y : Reg) : Statement (.addReg x y) :=
  beq_iff_eq.2 ((formatXYN_and_selector _ _ _ _).trans rfl)

theorem sub (x y : Reg) : Statement (.sub x y) :=
  beq_iff_eq.2 ((formatXYN_and_selector _ _ _ _).trans rfl)

theorem shr (x : Reg) : Statement (.shr x) :=
  beq_iff_eq.2 ((formatXYN_and_selector _ _ _ _).trans rfl)

theorem subn (x y : Reg) : Statement (.subn x y) :=
  beq_iff_eq.2 ((formatXYN_and_selector _ _ _ _).trans rfl)

theorem shl (x : Reg) : Statement (.shl x) :=
  beq_iff_eq.2 ((formatXYN_and_selector _ _ _ _).trans rfl)

theorem sneReg (x y : Reg) : Statement (.sneReg x y) :=
  beq_iff_eq.2 ((formatXYN_and_family _ _ _ _).trans rfl)

theorem ldI (nnn : BitVec 12) : Statement (.ldI nnn) :=
  beq_iff_eq.2 ((formatA_and _ _).trans rfl)

theorem jpV0 (nnn : BitVec 12) : Statement (.jpV0 nnn) :=
  beq_iff_eq.2 ((formatA_and _ _).trans rfl)

theorem rnd (x : Reg) (nn : Byte) : Statement (.rnd x nn) :=
  beq_iff_eq.2 ((formatXB_and_family _ _ _).trans rfl)

theorem drw (x y : Reg) (n : BitVec 4) : Statement (.drw x y n) :=
  beq_iff_eq.2 ((formatXYN_and_family _ _ _ _).trans rfl)

theorem skp (x : Reg) : Statement (.skp x) :=
  beq_iff_eq.2 ((formatXB_and_selector _ _ _).trans rfl)

theorem sknp (x : Reg) : Statement (.sknp x) :=
  beq_iff_eq.2 ((formatXB_and_selector _ _ _).trans rfl)

theorem ldVxDt (x : Reg) : Statement (.ldVxDt x) :=
  beq_iff_eq.2 ((formatXB_and_selector _ _ _).trans rfl)

theorem ldVxK (x : Reg) : Statement (.ldVxK x) :=
  beq_iff_eq.2 ((formatXB_and_selector _ _ _).trans rfl)

theorem ldDtVx (x : Reg) : Statement (.ldDtVx x) :=
  beq_iff_eq.2 ((formatXB_and_selector _ _ _).trans rfl)

theorem ldStVx (x : Reg) : Statement (.ldStVx x) :=
  beq_iff_eq.2 ((formatXB_and_selector _ _ _).trans rfl)

theorem addI (x : Reg) : Statement (.addI x) :=
  beq_iff_eq.2 ((formatXB_and_selector _ _ _).trans rfl)

theorem ldF (x : Reg) : Statement (.ldF x) :=
  beq_iff_eq.2 ((formatXB_and_selector _ _ _).trans rfl)

theorem ldB (x : Reg) : Statement (.ldB x) :=
  beq_iff_eq.2 ((formatXB_and_selector _ _ _).trans rfl)

theorem storeRegs (x : Reg) : Statement (.storeRegs x) :=
  beq_iff_eq.2 ((formatXB_and_selector _ _ _).trans rfl)

theorem loadRegs (x : Reg) : Statement (.loadRegs x) :=
  beq_iff_eq.2 ((formatXB_and_selector _ _ _).trans rfl)

end Sys2Proof.Laws.EncodingInRow
end

