-- ==== Sys2Proof/Tests/Slice0.lean ====
section
/-! SUPPORT. This model's own tests. Expected values are the spec's: the words are written out from the encodings of
30_encoding.md rule R63, and a one-step test names the vector of 95_test_vectors.md it takes its numbers from. The witnesses at
the end show states that meet the hypotheses of the statements, at the ends of their ranges. -/

namespace Sys2Proof.Tests

open Sys2Proof Sys2Proof.Machine

/-! ### Well-formedness: what each check accepts and refuses -/

theorem test_default_configuration_is_wf : Config.core.wf = true := by decide

/-- The highest font base of R4 is 0x1B0. -/
theorem test_font_at_its_highest : ({ fontBase := 0x1B0 } : Config).wf = true := by decide

theorem test_font_in_the_program_area_is_refused : ({ fontBase := 0x1B1 } : Config).fontFits = false := by decide

theorem test_row_bias_two_is_refused : ({ spriteRowBias := 2 } : Config).biasLegal = false := by decide

/-- RL1 and RL2: the largest image that fits, and one byte more. -/
theorem test_image_bound :
    imageFits (List.replicate 3584 0xAB) = true ∧ imageFits (List.replicate 3585 0xAB) = false := by
  simp only [imageFits, List.length_replicate, maxImage]; decide

/-! ### Decoding, one word per instruction (R63), with bits that are not looked at set where there are some (R65) -/

theorem test_decode_cls : decode 0b0000_0000_1110_0000 = .ok .cls := by decide
theorem test_decode_ret : decode 0b0000_0111_1110_1110 = .ok .ret := by decide
theorem test_decode_jp : decode 0b0001_1010_1011_1100 = .ok (.jp 0xABC) := by decide
theorem test_decode_call : decode 0b0010_1010_1011_1101 = .ok (.call 0xABD) := by decide
theorem test_decode_seByte : decode 0b0011_1010_0100_0010 = .ok (.seByte 0xA 0x42) := by decide
theorem test_decode_sneByte : decode 0b0100_0101_1000_0001 = .ok (.sneByte 5 0x81) := by decide
theorem test_decode_seReg : decode 0b0101_0001_0010_0111 = .ok (.seReg 1 2) := by decide
theorem test_decode_ldByte : decode 0b0110_1111_0001_0010 = .ok (.ldByte 15 0x12) := by decide
theorem test_decode_addByte : decode 0b0111_0001_1111_1110 = .ok (.addByte 1 0xFE) := by decide
theorem test_decode_ldReg : decode 0b1000_0001_0010_0000 = .ok (.ldReg 1 2) := by decide
theorem test_decode_orReg : decode 0b1000_0011_1100_0001 = .ok (.orReg 3 12) := by decide
theorem test_decode_andReg : decode 0b1000_0111_1000_0010 = .ok (.andReg 7 8) := by decide
theorem test_decode_xorReg : decode 0b1000_1110_0001_0011 = .ok (.xorReg 14 1) := by decide
theorem test_decode_addReg : decode 0b1000_1111_0001_0100 = .ok (.addReg 15 1) := by decide
theorem test_decode_sub : decode 0b1000_0001_1111_0101 = .ok (.sub 1 15) := by decide
theorem test_decode_shr : decode 0b1000_0001_0010_0110 = .ok (.shr 1) := by decide
theorem test_decode_subn : decode 0b1000_0100_1011_0111 = .ok (.subn 4 11) := by decide
theorem test_decode_shl : decode 0b1000_1011_0110_1110 = .ok (.shl 11) := by decide
theorem test_decode_sneReg : decode 0b1001_0001_0010_1111 = .ok (.sneReg 1 2) := by decide
theorem test_decode_ldI : decode 0b1010_0011_0000_0001 = .ok (.ldI 0x301) := by decide
theorem test_decode_jpV0 : decode 0b1011_0011_0000_1000 = .ok (.jpV0 0x308) := by decide
theorem test_decode_rnd : decode 0b1100_0011_0000_1111 = .ok (.rnd 3 0x0F) := by decide
theorem test_decode_drw : decode 0b1101_0001_0010_0100 = .ok (.drw 1 2 4) := by decide
theorem test_decode_skp : decode 0b1110_0010_1001_1110 = .ok (.skp 2) := by decide
theorem test_decode_sknp : decode 0b1110_0100_1010_0001 = .ok (.sknp 4) := by decide
theorem test_decode_ldVxDt : decode 0b1111_1000_0000_0111 = .ok (.ldVxDt 8) := by decide
theorem test_decode_ldVxK : decode 0b1111_0011_0000_1010 = .ok (.ldVxK 3) := by decide
theorem test_decode_ldDtVx : decode 0b1111_0101_0001_0101 = .ok (.ldDtVx 5) := by decide
theorem test_decode_ldStVx : decode 0b1111_0110_0001_1000 = .ok (.ldStVx 6) := by decide
theorem test_decode_addI : decode 0b1111_1111_0001_1110 = .ok (.addI 15) := by decide
theorem test_decode_ldF : decode 0b1111_0111_0010_1001 = .ok (.ldF 7) := by decide
theorem test_decode_ldB : decode 0b1111_1001_0011_0011 = .ok (.ldB 9) := by decide
theorem test_decode_storeRegs : decode 0b1111_1110_0101_0101 = .ok (.storeRegs 14) := by decide
theorem test_decode_loadRegs : decode 0b1111_0001_0110_0101 = .ok (.loadRegs 1) := by decide
/-- AL56, TK26 and RL3: undefined selectors. -/
theorem test_undefined_selectors :
    decode 0x8128 = .error .unrecognized ∧ decode 0x812F = .error .unrecognized ∧ decode 0xE19F = .error .unrecognized ∧
      decode 0xF166 = .error .unrecognized ∧ decode 0x0000 = .error .unrecognized := by decide

theorem test_decode_needs_two_bytes : decodeBytes [0x00] = .error .truncated := by decide

theorem test_decode_table_word : decodeTableWord 16 0xD124 = some (.drw 1 2 4) := by decide

/-! ### One step -/

/-- The state after LOAD of a program of one word. -/
def loaded (w : Word) : State := State.reset.loadImage [w.extractLsb' 8 8, w.extractLsb' 0 8]

/-- One STEP with the entropy input `rnd`, from the state after LOAD of the word, changed. -/
def stepped (w : Word) (rnd : Option Byte) (change : State → State) : State :=
  match performEvent (.step rnd) (change (loaded w)) with
  | .next t => t
  | .fault _ => State.reset
  | .refused _ => State.reset

/-- DS1. -/
theorem test_cls_clears :
    let t := stepped 0x00E0 none fun s => { s with fb := s.fb.flip 4 3 }
    t.fb = Framebuffer.clear ∧ t.dirty = true ∧ t.pc = 0x202 ∧ t.out = { signals := { redraw := true } } := by
  decide

/-- CF6. -/
theorem test_ret_pops :
    let t := stepped 0x00EE none fun s => { s with stack := s.stack.set 0 0xABC, sp := 1 }
    t.sp = 0 ∧ t.pc = 0xABC ∧ t.stack[0] = 0xABC := by
  decide

/-- CF8. -/
theorem test_ret_underflows :
    let t := stepped 0x00EE none fun s => s
    t.faultCode = 2 ∧ t.pc = 0x200 ∧ t.sp = 0 := by
  decide

/-- CF1. -/
theorem test_jp_goes_to_its_target :
    let t := stepped 0x1ABC none fun s => s
    t.pc = 0xABC ∧ t.sp = 0 := by
  decide

/-- CF4. -/
theorem test_call_pushes_the_next_address :
    let t := stepped 0x2ABC none fun s => { s with sp := 15 }
    t.stack[15] = 0x202 ∧ t.sp = 16 ∧ t.pc = 0xABC := by
  decide

/-- CF5. -/
theorem test_call_overflows :
    let t := stepped 0x2ABC none fun s => { s with sp := 16 }
    t.faultCode = 1 ∧ t.pc = 0x200 ∧ t.sp = 16 := by
  decide

/-- CF11. -/
theorem test_seByte_skips :
    let t := stepped 0x3A42 none fun s => s.setReg 10 0x42
    t.pc = 0x204 := by
  decide

/-- CF12. -/
theorem test_seByte_goes_on :
    let t := stepped 0x3A42 none fun s => s.setReg 10 0x43
    t.pc = 0x202 := by
  decide

/-- CF13. -/
theorem test_sneByte_goes_on :
    let t := stepped 0x4A42 none fun s => s.setReg 10 0x42
    t.pc = 0x202 := by
  decide

/-- CF14. -/
theorem test_sneByte_skips :
    let t := stepped 0x4A42 none fun s => s.setReg 10 0x43
    t.pc = 0x204 := by
  decide

/-- CF17. -/
theorem test_seReg_skips :
    let t := stepped 0x5127 none fun s => (s.setReg 1 7).setReg 2 7
    t.pc = 0x204 := by
  decide

/-- CF16. -/
theorem test_seReg_goes_on :
    let t := stepped 0x5120 none fun s => (s.setReg 1 7).setReg 2 8
    t.pc = 0x202 := by
  decide

/-- CF22. -/
theorem test_sneReg_goes_on :
    let t := stepped 0x9AA0 none fun s => s.setReg 10 9
    t.pc = 0x202 := by
  decide

/-- CF21. -/
theorem test_sneReg_skips :
    let t := stepped 0x912F none fun s => (s.setReg 1 7).setReg 2 8
    t.pc = 0x204 := by
  decide

/-- CF10. -/
theorem test_jpV0_adds_V0 :
    let t := stepped 0xBFFF none fun s => s.setReg 0 0xFF
    t.pc = 0x10FE := by
  decide

/-- AL1. -/
theorem test_ldByte_writes_VF :
    let t := stepped 0x6F12 none fun s => s
    t.reg VF = 0x12 ∧ t.pc = 0x202 := by
  decide

/-- AL3. -/
theorem test_addByte_wraps :
    let t := stepped 0x7101 none fun s => (s.setReg 1 0xFF).setReg 15 0x55
    t.reg 1 = 0 ∧ t.reg VF = 0x55 := by
  decide

/-- AL5. -/
theorem test_ldReg_copies :
    let t := stepped 0x8120 none fun s => s.setReg 2 0x7E
    t.reg 1 = 0x7E ∧ t.reg 2 = 0x7E := by
  decide

/-- AL7. -/
theorem test_orReg :
    let t := stepped 0x8121 none fun s => ((s.setReg 1 0xF0).setReg 2 0x0C).setReg 15 0x55
    t.reg 1 = 0xFC ∧ t.reg VF = 0x55 := by
  decide

/-- AL8. -/
theorem test_andReg :
    let t := stepped 0x8122 none fun s => ((s.setReg 1 0xF0).setReg 2 0x3C).setReg 15 0x55
    t.reg 1 = 0x30 ∧ t.reg VF = 0x55 := by
  decide

/-- AL9. -/
theorem test_xorReg :
    let t := stepped 0x8123 none fun s => ((s.setReg 1 0xF0).setReg 2 0x3C).setReg 15 0x55
    t.reg 1 = 0xCC ∧ t.reg VF = 0x55 := by
  decide

/-- S1. -/
theorem test_addReg_carries :
    let t := stepped 0x8124 none fun s => (s.setReg 1 0xFF).setReg 2 0x02
    t.reg 1 = 1 ∧ t.reg VF = 1 := by
  decide

/-- AL16. -/
theorem test_addReg_flag_wins :
    let t := stepped 0x8F14 none fun s => (s.setReg 15 1).setReg 1 2
    t.reg VF = 0 ∧ t.reg 1 = 2 := by
  decide

/-- S3. -/
theorem test_sub_borrows :
    let t := stepped 0x8125 none fun s => (s.setReg 1 0x05).setReg 2 0x09
    t.reg 1 = 0xFC ∧ t.reg VF = 0 := by
  decide

/-- AL21. -/
theorem test_sub_equal_is_no_borrow :
    let t := stepped 0x8125 none fun s => (s.setReg 1 7).setReg 2 7
    t.reg 1 = 0 ∧ t.reg VF = 1 := by
  decide

/-- AL29. -/
theorem test_subn_exchanges_the_operands :
    let t := stepped 0x8127 none fun s => (s.setReg 1 5).setReg 2 9
    t.reg 1 = 4 ∧ t.reg VF = 1 := by
  decide

/-- AL30. -/
theorem test_subn_borrows :
    let t := stepped 0x8127 none fun s => (s.setReg 1 9).setReg 2 5
    t.reg 1 = 0xFC ∧ t.reg VF = 0 := by
  decide

/-- AL40. -/
theorem test_shr_ignores_Y :
    let t := stepped 0x8126 none fun s => ((s.setReg 1 4).setReg 2 0xFF).setReg 15 0x55
    t.reg 1 = 2 ∧ t.reg 2 = 0xFF ∧ t.reg VF = 0 := by
  decide

/-- AL37. -/
theorem test_shr_reports_bit_0 :
    let t := stepped 0x8106 none fun s => (s.setReg 1 0xFF).setReg 15 0x55
    t.reg 1 = 0x7F ∧ t.reg VF = 1 := by
  decide

/-- AL43. -/
theorem test_shl_reports_bit_7 :
    let t := stepped 0x810E none fun s => (s.setReg 1 0x81).setReg 15 0x55
    t.reg 1 = 2 ∧ t.reg VF = 1 := by
  decide

/-- AL50. -/
theorem test_shl_on_VF :
    let t := stepped 0x8F0E none fun s => s.setReg 15 0x7F
    t.reg VF = 0 := by
  decide

/-- IM2. -/
theorem test_ldI :
    let t := stepped 0xAFFF none fun s => s
    t.i = 0xFFF := by
  decide

/-- AL51. -/
theorem test_rnd_masks :
    let t := stepped 0xC30F (some 0xA7) fun s => s
    t.reg 3 = 7 ∧ t.pc = 0x202 := by
  decide

/-- AL54. -/
theorem test_rnd_without_entropy :
    let t := stepped 0xC30F none fun s => s.setReg 3 0x77
    t.faultCode = 3 ∧ t.pc = 0x200 ∧ t.reg 3 = 0x77 := by
  decide

/-- DS3. -/
theorem test_drw_wraps :
    let t := stepped 0xD010 none fun s =>
      (({ s with mem := s.mem.write s.cfg 0x300 0x81, i := 0x300 } : State).setReg 0 60).setReg 1 31
    t.fb = (Framebuffer.clear.flip 60 31).flip 3 31 ∧ t.reg VF = 0 ∧ t.dirty = true ∧ t.pc = 0x202 := by
  decide

/-- DS9. -/
theorem test_drw_collides :
    let t := stepped 0xD230 none fun s =>
      ({ s with mem := s.mem.write s.cfg 0x300 0xF0, i := 0x300, fb := (((s.fb.flip 0 0).flip 1 0).flip 2 0).flip 3 0 } : State).setReg 2 2
    t.fb = (((Framebuffer.clear.flip 0 0).flip 1 0).flip 4 0).flip 5 0 ∧ t.reg VF = 1 := by
  decide

/-- TK21. -/
theorem test_skp_uses_the_low_nibble :
    let t := stepped 0xE19E none fun s => ({ s with keys := 0x0080 } : State).setReg 1 0x17
    t.pc = 0x204 := by
  decide

/-- TK22. -/
theorem test_skp_goes_on :
    let t := stepped 0xE19E none fun s => ({ s with keys := 0xFF7F } : State).setReg 1 7
    t.pc = 0x202 := by
  decide

/-- TK25. -/
theorem test_sknp_goes_on :
    let t := stepped 0xE1A1 none fun s => ({ s with keys := 0x0080 } : State).setReg 1 0xF7
    t.pc = 0x202 := by
  decide

/-- TK24. -/
theorem test_sknp_skips :
    let t := stepped 0xE1A1 none fun s => s.setReg 1 7
    t.pc = 0x204 := by
  decide

/-- TK2. -/
theorem test_ldVxDt :
    let t := stepped 0xFF07 none fun s => { s with dt := 0x2A }
    t.reg VF = 0x2A ∧ t.pc = 0x202 := by
  decide

/-- TK30. -/
theorem test_ldVxK_waits :
    let t := stepped 0xF30A none fun s => s
    t.wait = true ∧ t.pc = 0x200 ∧ t.out = { signals := { await := true } } := by
  decide

/-- TK30. -/
theorem test_ldVxK_completes :
    let t := stepped 0xF30A none fun s => { s with wait := true, klValid := true, klKey := 5 }
    t.reg 3 = 5 ∧ t.wait = false ∧ t.klValid = false ∧ t.pc = 0x202 ∧ t.out = {} := by
  decide

/-- TK3. -/
theorem test_ldDtVx :
    let t := stepped 0xFF15 none fun s => s.setReg 15 0x2A
    t.dt = 0x2A ∧ t.st = 0 := by
  decide

/-- TK5. -/
theorem test_ldStVx :
    let t := stepped 0xF118 none fun s => s.setReg 1 2
    t.st = 2 ∧ t.dt = 0 ∧ t.out = {} := by
  decide

/-- IM4. -/
theorem test_addI_wraps :
    let t := stepped 0xF11E none fun s => (({ s with i := 0xFFFF } : State).setReg 1 2).setReg 15 0x55
    t.i = 1 ∧ t.reg VF = 0x55 := by
  decide

/-- IM3. -/
theorem test_addI_leaves_the_address_space :
    let t := stepped 0xF11E none fun s => ({ s with i := 0x0FFF } : State).setReg 1 1
    t.i = 0x1000 ∧ t.fault = none := by
  decide

/-- IM9. -/
theorem test_ldF_uses_the_low_nibble :
    let t := stepped 0xF029 none fun s => s.setReg 0 0x1A
    t.i = 0x32 := by
  decide

/-- IM18. -/
theorem test_ldB_at_the_last_address :
    let t := stepped 0xF033 none fun s => ({ s with i := 0xFFD } : State).setReg 0 0x9D
    t.mem.read t.cfg 0xFFD = 1 ∧ t.mem.read t.cfg 0xFFE = 5 ∧ t.mem.read t.cfg 0xFFF = 7 := by
  decide

/-- IM19. -/
theorem test_ldB_out_of_range :
    let t := stepped 0xF033 none fun s => ({ s with i := 0xFFE } : State).setReg 0 0x9D
    t.faultCode = 4 ∧ t.pc = 0x200 ∧ t.mem.read t.cfg 0xFFE = 0 ∧ t.mem.read t.cfg 0xFFF = 0 := by
  decide

/-- IM22. -/
theorem test_storeRegs_stops_at_X :
    let t := stepped 0xF355 none fun s => ((({ s with i := 0x300 } : State).setReg 0 0xA0).setReg 3 0xA3).setReg 4 0xA4
    t.mem.read t.cfg 0x300 = 0xA0 ∧ t.mem.read t.cfg 0x303 = 0xA3 ∧ t.mem.read t.cfg 0x304 = 0 ∧ t.i = 0x300 := by
  decide

/-- IM25. -/
theorem test_storeRegs_out_of_range :
    let t := stepped 0xFF55 none fun s => ({ s with i := 0xFF1 } : State).setReg 0 0xA0
    t.faultCode = 4 ∧ t.mem.read t.cfg 0xFF1 = 0 := by
  decide

/-- IM33. -/
theorem test_loadRegs_reads_the_font :
    let t := stepped 0xF465 none fun s => s
    t.reg 0 = 0xF0 ∧ t.reg 1 = 0x90 ∧ t.reg 4 = 0xF0 ∧ t.reg 5 = 0 ∧ t.i = 0 := by
  decide

/-- IM31. -/
theorem test_loadRegs_out_of_range :
    let t := stepped 0xF165 none fun s => { s with i := 0xFFF }
    t.faultCode = 4 ∧ t.pc = 0x200 ∧ t.reg 0 = 0 := by
  decide


theorem test_reset_leaves_the_font :
    State.reset.mem.read Config.core 0x000 = 0xF0 ∧ State.reset.mem.read Config.core 0x04B = 0xF0 ∧
      State.reset.mem.read Config.core 0x04F = 0x80 ∧ State.reset.mem.read Config.core 0x050 = 0 := by decide

/-- R26 with the parameters of R4 set to other values: RESET goes to the machine's own entry point and font. -/
theorem test_reset_under_another_configuration :
    let t := ({ State.resetOf { fontBase := 0x50, resetPc := 0x300 } with pc := 0x123 } : State).coreReset
    t.pc = 0x300 ∧ t.mem.read t.cfg 0x50 = 0xF0 ∧ t.mem.read t.cfg 0x4F = 0 ∧ t.mem.read t.cfg 0x9F = 0x80 := by decide

/-- R101 with `ADD_IMM_WRITES_VF` set: 0xFF + 1 is 0 with a carry. -/
theorem test_addByte_reports_carry_where_configured :
    let t := stepped 0x7101 none fun s => { s.setReg 1 0xFF with cfg := { addImmWritesVf := true } }
    t.reg 1 = 0 ∧ t.reg VF = 1 := by decide

/-- R122 with `FONT_BASE` 0x50: glyph 3 is at 0x50 + 15. -/
theorem test_ldF_uses_the_font_base :
    (stepped 0xF029 none fun s => { s.setReg 0 3 with cfg := { fontBase := 0x50 } }).i = 0x5F := by decide

/-- TK9: TICK still acts after a fault. -/
theorem test_tick_after_a_fault :
    ({ State.reset with dt := 2, st := 1, fault := some .stackUnderflow } : State).tick =
      { State.reset with dt := 1, fault := some .stackUnderflow, out := { signals := { beep := true } } } := by decide

/-- The word placed by `withFetchWord` is the one `step` runs first after reset (its effect is CF1's). -/
theorem test_withFetchWord :
    step (State.reset.withFetchWord 16 0x1ABC) =
      .next { State.reset.withFetchWord 16 0x1ABC with
        pc := 0xABC, rnd := Config.entropy 0, draws := 1 } := by
  rfl

/-! ### Witnesses: states that meet the hypotheses of the statements -/

theorem witness_EncodeOfDecodeClearsOnlyUnusedBits : decode 0x812E = .ok (.shl 1) := by decide

/-- A fetch at the last legal address, 4094; the last byte of memory is 0, so the word there is 0x6500. -/
def atTheTop : State := { State.reset with pc := 4094, mem := [(4094, 0x65)] }

theorem witness_StepRunsTheDecodedInstruction :
    atTheTop.CanFetch ∧ decode atTheTop.word = .ok (.ldByte 5 0) ∧ atTheTop.pending = [] ∧
      ({ atTheTop with pending := [.step none, .tick] } : State).pending = .step none :: [.tick] :=
  ⟨⟨rfl, by decide⟩, by decide, rfl, rfl⟩

theorem witness_UnrecognizedWordHangs :
    (loaded 0x8AB8).Hung ∧ ∀ e ∈ [Event.step none, .tick, .setKey 3 true, .readVideo], e.keepsRun = true :=
  ⟨⟨⟨rfl, by decide⟩, by decide⟩, by decide⟩

/-- A core in which RET has underflowed. -/
def faulted : State := { State.reset with fault := some .stackUnderflow }

theorem witness_FaultedCoreIsInert :
    faulted.Faulted ∧ ∀ e ∈ [Event.step (some 1), .tick, .setKey 3 true, .readVideo], e.keepsRun = true :=
  ⟨by show faulted.fault ≠ none; decide, by decide⟩

theorem witness_FetchAboveMemoryFaults :
    State.reset.fault = none ∧ 4094 < ({ State.reset with pc := 4095 } : State).pc.toNat ∧
      4094 < ({ State.reset with pc := 0xFFFF } : State).pc.toNat := by decide

theorem witness_FaultsArePrecise :
    exec .ret State.reset = .next faulted ∧ faulted.fault ≠ State.reset.fault := ⟨rfl, by decide⟩

theorem witness_ProgramCounterFollowsItsClass :
    State.reset.fault = none ∧ exec .ret State.reset = .next faulted ∧
      exec (.jp 0xFFF) State.reset = .next { State.reset with pc := 0xFFF } ∧ decode 0x0000 = .error .unrecognized ∧
      execWord 0x0000 State.reset = .next { State.reset with out := { signals := { unrecognized := true } } } :=
  ⟨rfl, rfl, rfl, by decide, rfl⟩

theorem witness_SignalsOfAnInstruction :
    State.reset.fault = none ∧ State.reset.out = {} ∧ exec .ret State.reset = .next faulted ∧
      exec (.ldVxK 3) State.reset = .next { State.reset with wait := true, out := { signals := { await := true } } } :=
  ⟨rfl, rfl, rfl, rfl⟩

theorem witness_RegistersChangeOnlyWhereNamed :
    (∃ t, exec (.ldByte 1 0) State.reset = .next t) ∧ (Instr.ldByte 1 0).names VF = false ∧
      (VF = VF → (Instr.ldByte 1 0).writesFlag State.reset.cfg = false) ∧ (Instr.addReg 1 2).names 3 = false ∧
      ((3 : Reg) = VF → (Instr.addReg 1 2).writesFlag State.reset.cfg = false) ∧ ∃ t, exec (.addReg 1 2) State.reset = .next t :=
  ⟨⟨_, rfl⟩, by decide, by decide, by decide, by decide, _, rfl⟩

/-- Each piece of state of the statement is changed by some instruction that may change it. -/
theorem witness_SpecialStateChangesOnlyByItsInstructions :
    (stepped 0xF033 none fun s => ({ s with i := 0x300 } : State).setReg 0 1).mem ≠ (loaded 0xF033).mem ∧
      (stepped 0xA123 none id).i ≠ 0 ∧ (stepped 0xF115 none (·.setReg 1 1)).dt ≠ 0 ∧
      (stepped 0xF118 none (·.setReg 1 1)).st ≠ 0 ∧ (stepped 0x2ABC none id).stack ≠ State.reset.stack ∧
      (stepped 0x2ABC none id).sp ≠ 0 ∧ (stepped 0x00E0 none id).dirty ≠ false ∧
      (stepped 0xF30A none id).wait ≠ false := by decide

theorem witness_OnlyRndReadsTheEntropyInput :
    (∀ x nn, Instr.ret ≠ .rnd x nn) ∧ exec .ret State.reset = .next faulted :=
  ⟨fun _ _ h => (nomatch h), rfl⟩

theorem witness_FramebufferHasFourTransitions :
    (loaded 0x00E0).cfg.wf = true ∧
      ∀ e ∈ [Event.reset, .load [0xD0], .step none, .readVideo], ∃ t, performEvent e (loaded 0x00E0) = .next t := by
  refine ⟨by decide, fun e he => ?_⟩
  fin_cases he <;> exact ⟨_, rfl⟩

theorem witness_CallPushesOrOverflows :
    State.reset.sp.val < 16 ∧ ({ State.reset with sp := 15 } : State).sp.val < 16 ∧
      ({ State.reset with sp := 16 } : State).sp.val = 16 := by decide

theorem witness_ReturnPopsOrUnderflows :
    State.reset.sp.val = 0 ∧ 0 < ({ State.reset with sp := 1 } : State).sp.val ∧
      0 < ({ State.reset with sp := 16 } : State).sp.val := by decide

/-- Sixteen nested calls from an empty stack, and one from a stack with one place left. -/
theorem witness_NestedCallsThenReturnsComeBack :
    List.replicate 16 (0x300 : BitVec 12) ≠ [] ∧ State.reset.sp.val + (List.replicate 16 (0x300 : BitVec 12)).length ≤ 16 ∧
      ({ State.reset with sp := 15 } : State).sp.val + [(0x300 : BitVec 12)].length ≤ 16 := by decide

theorem witness_AddImmediateWrapsWithoutFlag :
    State.reset.cfg.addImmWritesVf = false ∧ (State.resetOf { addImmWritesVf := true }).cfg.addImmWritesVf = true := ⟨rfl, rfl⟩

theorem witness_RandomIsTheMaskedEntropyByte :
    ({ State.reset with rnd := some 0xA7 } : State).rnd = some 0xA7 ∧ State.reset.rnd = none := ⟨rfl, rfl⟩

theorem witness_BcdStoreWritesThreeDigits :
    ({ State.reset with i := 4093 } : State).mem.wf Config.core = true ∧ ({ State.reset with i := 4093 } : State).i.toNat ≤ 4093 := by
  decide

/-- The highest bases of a transfer of one and of sixteen registers; it serves the block dump, the block load and both. -/
theorem witness_block_transfers :
    State.reset.mem.wf Config.core = true ∧ ({ State.reset with i := 4095 } : State).i.toNat + (0 : Reg).toNat ≤ 4095 ∧
      ({ State.reset with i := 4080 } : State).i.toNat + (15 : Reg).toNat ≤ 4095 := by decide

/-- The lowest out-of-range base of each access, and the highest value of `I`. -/
theorem witness_OutOfRangeAccessFaults :
    4095 < ({ State.reset with i := 4094 } : State).i.toNat + 2 ∧
      4095 < ({ State.reset with i := 4096 } : State).i.toNat + (0 : Reg).toNat ∧
      4095 < ({ State.reset with i := 4081 } : State).i.toNat + (15 : Reg).toNat ∧
      4096 < ({ State.reset with i := 4096 } : State).i.toNat + ((0 : BitVec 4).toNat + Config.core.spriteRowBias) ∧
      4096 < ({ State.reset with i := 4081 } : State).i.toNat + ((15 : BitVec 4).toNat + Config.core.spriteRowBias) ∧
      4095 < ({ State.reset with i := 0xFFFF } : State).i.toNat + 2 := by decide

theorem witness_StoreIsSeenByTheNextFetch :
    let s : State := { State.reset with i := 0x202 }
    s.mem.wf Config.core = true ∧ s.i.toNat + (1 : Reg).toNat ≤ 4095 ∧ (1 : Reg).toNat = (0 : Reg).toNat + 1 ∧
      (1 : Reg).toNat ≤ (1 : Reg).toNat ∧ (s.pc + 2).toNat = s.i.toNat + (0 : Reg).toNat := by decide

/-- LD V3, K that has begun to wait. -/
def waiting : State := { loaded 0xF30A with wait := true }

theorem witness_KeyWaitSuspendsOrCompletes :
    (({ waiting with klValid := true } : State).wait = true ∧ ({ waiting with klValid := true } : State).klValid = true) ∧
      ¬ (waiting.wait = true ∧ waiting.klValid = true) := by decide

theorem waiting_inv (es : List Event) : ({ waiting with pending := es } : State).Inv where
  cfgWf := by show Config.core.wf = true; decide
  memWf := by show waiting.mem.wf Config.core = true; decide
  latchInWait := fun _ => rfl
  waitAtKeyWait := fun _ => ⟨⟨rfl, by show waiting.pc.toNat ≤ 4094; decide⟩, 3, by show decode waiting.word = _; decide⟩
  pcBound := .inl (by show waiting.pc.toNat ≤ 0x10FE; decide)
  stackBound := by show ∀ k : Fin 16, k.val < waiting.sp.val → waiting.stack[k].toNat ≤ 4096; decide

theorem witness_WaitLastsUntilAKeyDown :
    waiting.Inv ∧ waiting.wait = true ∧ waiting.klValid = false ∧
      ∀ e ∈ [Event.step none, .tick, .setKey 3 false, .readVideo], e.noPress = true :=
  ⟨waiting_inv [], rfl, by decide, by decide⟩

theorem witness_FirstKeyDownEndsTheWait :
    waiting.wait = true ∧ waiting.klValid = false ∧ waiting.CanFetch ∧ decode waiting.word = .ok (.ldVxK 3) ∧
      waiting.keys.getLsbD (15 : BitVec 4).toNat = false :=
  ⟨rfl, by decide, ⟨rfl, by decide⟩, by decide, by decide⟩

/-- DS13 and DS15: sprites that end at the last byte of memory. -/
theorem witness_DrawIsTheXorOfTheSprite :
    State.reset.cfg.wf = true ∧
      ({ State.reset with i := 4095 } : State).i.toNat + ((0 : BitVec 4).toNat + Config.core.spriteRowBias) ≤ 4096 ∧
      ({ State.reset with i := 4080 } : State).i.toNat + ((15 : BitVec 4).toNat + Config.core.spriteRowBias) ≤ 4096 := by
  decide

/-- A sprite of sixteen rows under each of the two row biases that the spec allows. -/
theorem witness_DrawingTwiceRestoresThePixels :
    State.reset.cfg.wf = true ∧ (4080 : Word).toNat + ((15 : BitVec 4).toNat + State.reset.cfg.spriteRowBias) ≤ 4096 ∧
      (State.resetOf { spriteRowBias := 0 }).cfg.wf = true ∧
      (4081 : Word).toNat + ((15 : BitVec 4).toNat + (State.resetOf { spriteRowBias := 0 }).cfg.spriteRowBias) ≤ 4096 ∧
      (0 : Reg) ≠ VF ∧ (14 : Reg) ≠ VF := by decide

theorem witness_SetKeyWritesOneBit :
    (waiting.keys.getLsbD (15 : BitVec 4).toNat = false ∧ waiting.wait = true ∧ waiting.klValid = false) ∧
      ¬ (State.reset.wait = true) ∧ ¬ (({ waiting with klValid := true } : State).klValid = false) := by decide

theorem witness_OtherEventsIgnoreTheFault :
    ∀ e ∈ [Event.tick, .setKey 2 true, .readVideo], ∃ t, performEvent e faulted = .next t := by
  intro e he
  fin_cases he <;> exact ⟨_, rfl⟩

theorem witness_LoadCopiesTheImage :
    (List.replicate 3584 (0xAB : Byte)).length ≤ 3584 ∧ ([] : List Byte).length ≤ 3584 := by
  simp only [List.length_replicate]; decide

theorem witness_OversizeImageIsRejected : 3584 < (List.replicate 3585 (0xAB : Byte)).length := by
  simp only [List.length_replicate]; decide

/-- P6 (b): RET as the first instruction. -/
theorem witness_FaultEntryHoldsTheCode :
    (loaded 0x00EE).fault = none ∧ (stepped 0x00EE none id).fault ≠ none ∧
      performEvent (.step none) (loaded 0x00EE) = .next (stepped 0x00EE none id) :=
  ⟨by decide, by decide, rfl⟩

theorem witness_EveryStepKeepsTheInvariant :
    ({ waiting with pending := [.tick] } : State).Inv ∧ ∃ t, step { waiting with pending := [.tick] } = .next t :=
  ⟨waiting_inv _, _, rfl⟩

/-- CF2: a jump to itself. -/
theorem witness_ParkedProgramStays : (loaded 0x1200).Parked :=
  ⟨⟨rfl, by decide⟩, rfl, 0x200, by decide, by decide⟩

theorem witness_CanonicalMemoriesThatReadAlikeAreEqual :
    Memory.wf Config.core [(0x300, 1)] = true ∧ (Memory.write Config.core [] 0x300 1).wf Config.core = true ∧
      ∀ a, a < 4096 → Memory.read Config.core [(0x300, 1)] a = (Memory.write Config.core [] 0x300 1).read Config.core a :=
  ⟨by decide, by decide, fun _ _ => rfl⟩

end Sys2Proof.Tests
end

section
/-! PROOFS. The run of a machine under the events that leave the program loaded and the run going: what such an event can
change, an induction over the events of a run, and the hang on an unrecognized word (40_step_cycle.md rule R83). -/

namespace Sys2Proof.Machine

/-! ### Runs -/

/-- A property that every event of a list keeps, holds after all of them. -/
theorem performAll_keeps {P : State → Prop} :
    ∀ {es : List Event} {s : State}, (∀ e ∈ es, ∀ t, P t → ∃ u, performEvent e t = .next u ∧ P u) → P s →
      ∃ t, performAll es s = .next t ∧ P t
  | [], s, _, hs => ⟨s, rfl, hs⟩
  | e :: es, s, hstep, hs => by
    obtain ⟨t, ht, hPt⟩ := hstep e List.mem_cons_self s hs
    obtain ⟨u, hu, hPu⟩ := performAll_keeps (fun e' he' => hstep e' (List.mem_cons_of_mem e he')) hPt
    exact ⟨u, by rw [performAll, ht]; exact hu, hPu⟩

/-- `t` agrees with `s` on the state of the run: everything but the timers, the keys and the latch, `DIRTY`, and the inputs
and outputs of an event. TICK, SET_KEY and READ_VIDEO write nothing else. -/
def State.SameRun (s t : State) : Prop :=
  t = { s with dt := t.dt, st := t.st, keys := t.keys, dirty := t.dirty, klValid := t.klValid, klKey := t.klKey,
               rnd := t.rnd, out := t.out }

theorem State.SameRun.refl (s : State) : s.SameRun s := rfl

theorem State.SameRun.trans {s t u : State} (hst : s.SameRun t) (htu : t.SameRun u) : s.SameRun u := by
  unfold State.SameRun at htu
  rw [hst] at htu
  exact htu

theorem State.SameRun.canFetch {s t : State} (h : s.SameRun t) (hs : s.CanFetch) : t.CanFetch := by
  have hfault : t.fault = s.fault := (congrArg State.fault h :)
  have hpc : t.pc = s.pc := (congrArg State.pc h :)
  rwa [State.CanFetch, hfault, hpc]

theorem State.SameRun.word_eq {s t : State} (h : s.SameRun t) : t.word = s.word := (congrArg State.word h :)

/-- An event that is neither RESET nor LOAD keeps the state of the run, where a STEP does. -/
theorem performEvent_sameRun {s : State} {e : Event} (he : e.keepsRun = true)
    (hstep : ∀ rnd, ∃ t, performEvent (.step rnd) s = .next t ∧ s.SameRun t) :
    ∃ t, performEvent e s = .next t ∧ s.SameRun t := by
  cases e with
  | reset => cases he
  | load image => cases he
  | step rnd => exact hstep rnd
  | tick => exact ⟨s.tick, rfl, rfl⟩
  | setKey k pressed => exact ⟨s.setKey k pressed, rfl, rfl⟩
  | readVideo => exact ⟨s.readVideo, rfl, rfl⟩

/-- A run without RESET and LOAD keeps the state of the run, where a STEP does so in every state that agrees with the first
one on it. -/
theorem performAll_sameRun {s : State} {es : List Event} (hes : ∀ e ∈ es, e.keepsRun = true)
    (hstep : ∀ t, s.SameRun t → ∀ rnd, ∃ u, performEvent (.step rnd) t = .next u ∧ t.SameRun u) :
    ∃ t, performAll es s = .next t ∧ s.SameRun t := by
  refine performAll_keeps (P := s.SameRun) (fun e he t hst => ?_) (.refl s)
  obtain ⟨u, hu, htu⟩ := performEvent_sameRun (hes e he) (hstep t hst)
  exact ⟨u, hu, hst.trans htu⟩

/-! ### The hang on an unrecognized word (R83) -/

theorem State.SameRun.hung {s t : State} (h : s.SameRun t) (hs : s.Hung) : t.Hung := by
  obtain ⟨hfetch, hword⟩ := hs
  exact ⟨h.canFetch hfetch, by rwa [h.word_eq]⟩

/-- A STEP whose word is unrecognized is the signalled no-operation. -/
theorem performEvent_step_hung {s : State} (rnd : Option Byte) (hs : s.Hung) :
    performEvent (.step rnd) s = .next (s.beginStep rnd).signalUnrecognized := by
  obtain ⟨⟨hfault, hpc⟩, hword⟩ := hs
  have hfetch : stepEvent rnd s = execWord s.word (s.beginStep rnd) :=
    stepEvent_fetched rnd s hfault (by simp only [memSize]; omega)
  rw [performEvent, hfetch, execWord, hword]

/-- TICK, SET_KEY and READ_VIDEO neither read nor write memory. -/
theorem performEvent_with_mem {e : Event} (he : e = .tick ∨ (∃ k p, e = .setKey k p) ∨ e = .readVideo)
    {s t : State} (h : performEvent e s = .next t) (m : Memory) :
    performEvent e { s with mem := m } = .next { t with mem := m } := by
  obtain rfl | ⟨k, p, rfl⟩ | rfl := he
  all_goals
    cases h
    rfl

/-- Settles O8: a hung state stays hung under every event that keeps the run, so the STEP after them is the signalled
no-operation too. -/
theorem unrecognizedWordHangs : Obligations.UnrecognizedWordHangs := by
  intro s es rnd hs hes
  obtain ⟨t, ht, hst⟩ := performAll_sameRun hes fun t hst rnd =>
    ⟨_, performEvent_step_hung rnd (hst.hung hs), rfl⟩
  exact ⟨t, _, ht, hst, performEvent_step_hung rnd (hst.hung hs), rfl, rfl,
    fun e v m he hv => performEvent_with_mem he hv m⟩

end Sys2Proof.Machine
end

section
/-! PROOFS. The skips (41_control_flow.md): what a skip does under a condition, and the skip-if-equal against a byte. -/

namespace Sys2Proof.Machine

/-- The skip class of R82 with its test read as a proposition: one following instruction is bypassed where it holds and none
where it fails, and nothing but `PC` changes. -/
theorem State.skipIf_eq_of_iff {c : Bool} {p : Prop} [Decidable p] (h : c = true ↔ p) (s : State) :
    s.skipIf c = { s with pc := if p then s.pc + 4 else s.pc + 2 } := by
  simp only [State.skipIf, State.setPc, h]

/-- SE Vx, byte is the skip on `V[x] = nn`. -/
theorem exec_seByte (x : Reg) (nn : Byte) (s : State) : exec (.seByte x nn) s = .next (s.skipIf (s.reg x == nn)) := rfl

/-- Settles O19: SE Vx, byte is a skip, and its test is the equality. -/
theorem skipIfEqualByte : Obligations.SkipIfEqualByte := by
  intro x nn s
  rw [exec_seByte, State.skipIf_eq_of_iff beq_iff_eq]

end Sys2Proof.Machine
end

section
/-! PROOFS. The arithmetic that reports in `VF` (42_alu.md): what a result-and-flag write leaves behind, and the 8-bit addition
and subtraction on it. -/

namespace Sys2Proof.Machine

theorem toNat_flagByte (f : Bool) : (flagByte f).toNat = if f then 1 else 0 := by
  cases f <;> rfl

/-- A result-and-flag write that advances meets `WritesRegAndFlag` for the number its result holds and the proposition its
flag decides (R87). -/
theorem State.writesRegAndFlag_of_iff {x : Reg} {b : Byte} {f : Bool} {r : Nat} {p : Prop} [Decidable p]
    (hresult : b.toNat = r) (hflag : f = true ↔ p) (s : State) :
    WritesRegAndFlag s (s.setResultAndFlag x b f).advance x r p := by
  refine ⟨?flag, fun hx => ?result, fun k hkx hkf => ?others, rfl⟩
  case flag => simp only [State.reg_advance, State.reg_setResultAndFlag, if_true, toNat_flagByte, hflag]
  case result => simp only [State.reg_advance, State.reg_setResultAndFlag, if_neg hx.symm, if_true, hresult]
  case others => simp only [State.reg_advance, State.reg_setResultAndFlag, if_neg hkf.symm, if_neg hkx.symm]

theorem carryOut_iff (a b : Byte) : carryOut a b = true ↔ 255 < a.toNat + b.toNat := decide_eq_true_iff

theorem noBorrow_iff (a b : Byte) : noBorrow a b = true ↔ b.toNat ≤ a.toNat := decide_eq_true_iff

/-- The difference of two bytes is their integer difference modulo 256. -/
theorem toNat_sub_eq_emod (a b : Byte) : (a - b).toNat = (((a.toNat : Int) - b.toNat) % 256).toNat := by
  have ha := a.isLt
  have hb := b.isLt
  rw [BitVec.toNat_sub]
  omega

/-- ADD Vx, Vy writes the sum, and the carry as its flag. -/
theorem exec_addReg (x y : Reg) (s : State) : exec (.addReg x y) s =
    .next (s.setResultAndFlag x (s.reg x + s.reg y) (carryOut (s.reg x) (s.reg y))).advance := rfl

/-- SUB Vx, Vy writes the difference, and the absence of a borrow as its flag. -/
theorem exec_sub (x y : Reg) (s : State) : exec (.sub x y) s =
    .next (s.setResultAndFlag x (s.reg x - s.reg y) (noBorrow (s.reg x) (s.reg y))).advance := rfl

/-- Settles O28: ADD Vx, Vy is a result-and-flag write, of the sum modulo 256 and its carry. -/
theorem addReportsCarry : Obligations.AddReportsCarry := fun x y s =>
  ⟨_, exec_addReg x y s, s.writesRegAndFlag_of_iff (BitVec.toNat_add _ _) (carryOut_iff _ _)⟩

/-- Settles O29: SUB Vx, Vy is a result-and-flag write, of the difference modulo 256 and the absence of a borrow. -/
theorem subReportsNoBorrow : Obligations.SubReportsNoBorrow := fun x y s =>
  ⟨_, exec_sub x y s, s.writesRegAndFlag_of_iff (toNat_sub_eq_emod _ _) (noBorrow_iff _ _)⟩

end Sys2Proof.Machine
end

section
/-! PROOFS. The key skips (44_timers_keys.md): SKP and SKNP as skips on the key that the low nibble of `V[x]` names. -/

namespace Sys2Proof.Machine

/-- The low nibble of a byte, as a number, is the byte modulo 16. -/
theorem toNat_lowNibble (b : Byte) : (lowNibble b).toNat = b.toNat % 16 := BitVec.extractLsb'_toNat 0 4 b

/-- R133: a key is held when the bit of `KEYS` numbered `V[x]` modulo 16 is set. -/
theorem State.keyHeld_eq (s : State) (x : Reg) : s.keyHeld x = s.keys.getLsbD ((s.reg x).toNat % 16) := by
  rw [State.keyHeld, toNat_lowNibble]

/-- SKP Vx is the skip on the named key being held. -/
theorem exec_skp (x : Reg) (s : State) : exec (.skp x) s = .next (s.skipIf (s.keyHeld x)) := rfl

/-- SKNP Vx is the skip on the named key not being held. -/
theorem exec_sknp (x : Reg) (s : State) : exec (.sknp x) s = .next (s.skipIf (!s.keyHeld x)) := rfl

/-- Settles O21: SKP and SKNP are skips, and their tests are the named bit of `KEYS` being 1 and being 0. -/
theorem keySkipsTestTheNamedKey : Obligations.KeySkipsTestTheNamedKey := by
  intro x s
  rw [← s.keyHeld_eq x]
  constructor
  · rw [exec_skp, State.skipIf_eq_of_iff Iff.rfl]
  · rw [exec_sknp, State.skipIf_eq_of_iff (Bool.not_eq_true' _).to_iff]

end Sys2Proof.Machine
end

section
/-! PROOFS. The decoder against the encoder and against the opcode table (30_encoding.md): what selects each arm of the decoder,
the two round trips, the undefined selectors, and the rows of the table. -/

namespace Sys2Proof

/-! ### The encoder's words decode back (R63, R67) -/

/-- Decoding the encoding of an instruction reads back the family, the selector and every operand that the format holds. -/
theorem decode_encode (i : Instr) : decode (encode i) = .ok i := by
  cases i
  case cls | ret => simp [encode, decode, decodeFamily0]
  case ldReg | orReg | andReg | xorReg | addReg | sub | shr | subn | shl => simp [encode, decode, decodeFamily8]
  case skp | sknp => simp [encode, decode, decodeFamilyE]
  case ldVxDt | ldVxK | ldDtVx | ldStVx | addI | ldF | ldB | storeRegs | loadRegs => simp [encode, decode, decodeFamilyF]
  all_goals simp [encode, decode]

/-- An instruction's two bytes at the head of a stream decode to it, and leave what follows. -/
theorem decodeBytes_encodeBytes_append (i : Instr) (rest : List Byte) :
    decodeBytes (encodeBytes i ++ rest) = .ok (i, rest) := by
  simp only [encodeBytes, List.cons_append, List.nil_append, decodeBytes, wordOfBytes_extract, decode_encode]

/-- Settles O2: the two directions of reading an encoded instruction, as a word and at the head of a byte stream. -/
theorem decodeOfEncodeIsTheInstruction : Obligations.DecodeOfEncodeIsTheInstruction := fun i rest =>
  ⟨decode_encode i, decodeBytes_encodeBytes_append i rest⟩

/-! ### A decoded word encodes back to its used bits (R65) -/

/-- In family 0x0 only the `X` nibble is lost. -/
theorem encode_of_decodeFamily0 {w : Word} {i : Instr} (hf : family w = 0x0) (h : decodeFamily0 w = .ok i) :
    encode i = w &&& i.usedBits := by
  rw [← formatXB_fields w, hf]
  unfold decodeFamily0 at h
  split at h
  case h_3 => cases h
  all_goals
    next hs =>
      cases h
      rw [hs]
      exact (formatXB_and_selector _ _ _).symm

/-- In family 0x8 only the `Y` nibble of the two shifts is lost. -/
theorem encode_of_decodeFamily8 {w : Word} {i : Instr} (hf : family w = 0x8) (h : decodeFamily8 w = .ok i) :
    encode i = w &&& i.usedBits := by
  have hw := formatXYN_fields w
  rw [hf] at hw
  unfold decodeFamily8 at h
  split at h
  case h_10 => cases h
  case h_7 hs | h_9 hs =>
    cases h
    rw [← hw, hs]
    simp only [encode, fieldX_formatXYN]
    exact (formatXYN_and_dropY _ _ _ _).symm
  all_goals
    next hs =>
      cases h
      rw [hs] at hw
      exact hw.trans BitVec.and_allOnes.symm

/-- In family 0xE nothing is lost. -/
theorem encode_of_decodeFamilyE {w : Word} {i : Instr} (hf : family w = 0xE) (h : decodeFamilyE w = .ok i) :
    encode i = w &&& i.usedBits := by
  have hw := formatXB_fields w
  unfold decodeFamilyE at h
  split at h
  case h_3 => cases h
  all_goals
    next hs =>
      cases h
      rw [hf, hs] at hw
      exact hw.trans BitVec.and_allOnes.symm

/-- In family 0xF nothing is lost. -/
theorem encode_of_decodeFamilyF {w : Word} {i : Instr} (hf : family w = 0xF) (h : decodeFamilyF w = .ok i) :
    encode i = w &&& i.usedBits := by
  have hw := formatXB_fields w
  unfold decodeFamilyF at h
  split at h
  case h_10 => cases h
  all_goals
    next hs =>
      cases h
      rw [hf, hs] at hw
      exact hw.trans BitVec.and_allOnes.symm

/-- Settles O3: by the family of the word; in families 0x5 and 0x9 the low nibble is lost, and the others without a selector
keep every bit. -/
theorem encodeOfDecodeClearsOnlyUnusedBits : Obligations.EncodeOfDecodeClearsOnlyUnusedBits := by
  intro w i h
  unfold decode at h
  split at h
  case h_1 hf => exact encode_of_decodeFamily0 hf h
  case h_9 hf => exact encode_of_decodeFamily8 hf h
  case h_15 hf => exact encode_of_decodeFamilyE hf h
  case h_16 hf => exact encode_of_decodeFamilyF hf h
  case h_17 => cases h
  case h_6 hf | h_10 hf =>
    cases h
    rw [← formatXYN_fields w, hf]
    simp only [encode, fieldX_formatXYN, fieldY_formatXYN]
    exact (formatXYN_and_dropN _ _ _ _).symm
  case h_2 hf | h_3 hf | h_11 hf | h_12 hf =>
    cases h
    exact (hf ▸ formatA_fields w).trans BitVec.and_allOnes.symm
  case h_14 hf =>
    cases h
    exact (hf ▸ formatXYN_fields w).trans BitVec.and_allOnes.symm
  all_goals
    next hf =>
      cases h
      exact (hf ▸ formatXB_fields w).trans BitVec.and_allOnes.symm

/-! ### The undefined selectors (R64, R66) -/

/-- The sixteen values of a nibble. -/
theorem nibble_mem : ∀ n : BitVec 4, n ∈ ([0, 1, 2, 3, 4, 5, 6, 7, 8, 9, 10, 11, 12, 13, 14, 15] : List (BitVec 4)) := by
  decide

theorem decodeFamily0_unrecognized (w : Word) :
    decodeFamily0 w = .error .unrecognized ↔ fieldNN w ∉ ([0xE0, 0xEE] : List Byte) := by
  unfold decodeFamily0
  split <;> simp_all

theorem decodeFamily8_unrecognized (w : Word) : decodeFamily8 w = .error .unrecognized ↔
    fieldN w ∈ ([0x8, 0x9, 0xA, 0xB, 0xC, 0xD, 0xF] : List (BitVec 4)) := by
  unfold decodeFamily8
  split
  case h_10 =>
    have := nibble_mem (fieldN w)
    simp_all
  all_goals simp [*]

theorem decodeFamilyE_unrecognized (w : Word) :
    decodeFamilyE w = .error .unrecognized ↔ fieldNN w ∉ ([0x9E, 0xA1] : List Byte) := by
  unfold decodeFamilyE
  split <;> simp_all

theorem decodeFamilyF_unrecognized (w : Word) : decodeFamilyF w = .error .unrecognized ↔
    fieldNN w ∉ ([0x07, 0x0A, 0x15, 0x18, 0x1E, 0x29, 0x33, 0x55, 0x65] : List Byte) := by
  unfold decodeFamilyF
  split <;> simp_all

/-- Bytes that are given whole are never truncated. -/
theorem decode_ne_truncated (w : Word) : decode w ≠ .error .truncated := by
  unfold decode decodeFamily0 decodeFamily8 decodeFamilyE decodeFamilyF
  repeat' split
  all_goals nofun

/-- Settles O4: by the family of the word; outside the four that sub-decode, every word is an instruction. -/
theorem unrecognizedExactlyUndefinedSelectors : Obligations.UnrecognizedExactlyUndefinedSelectors := by
  refine fun w => ⟨?_, decode_ne_truncated w⟩
  unfold decode
  split
  case h_1 hf => simp [hf, decodeFamily0_unrecognized]
  case h_9 hf => simp [hf, decodeFamily8_unrecognized]
  case h_15 hf => simp [hf, decodeFamilyE_unrecognized]
  case h_16 hf => simp [hf, decodeFamilyF_unrecognized]
  case h_17 =>
    have := nibble_mem (family w)
    simp_all
  all_goals simp [*]

/-! ### The rows of the opcode table (R67) -/

/-- Every mask of the table keeps the family. -/
theorem family_and_mask (w : Word) (j : Instr) : family (w &&& j.row.mask) = family w := by
  have hmask : family j.row.mask = BitVec.allOnes 4 := by cases j <;> (simp only [Instr.row]; rfl)
  unfold family at hmask ⊢
  rw [BitVec.extractLsb'_and, hmask, BitVec.and_allOnes]

/-- The masks with a byte selector keep the low byte. -/
theorem fieldNN_and_mask (w : Word) : fieldNN (w &&& 0xF0FF) = fieldNN w := by
  unfold fieldNN
  rw [BitVec.extractLsb'_and]
  exact BitVec.and_allOnes

/-- The masks with a nibble selector keep the low nibble. -/
theorem fieldN_and_mask (w : Word) : fieldN (w &&& 0xF00F) = fieldN w := by
  unfold fieldN
  rw [BitVec.extractLsb'_and]
  exact BitVec.and_allOnes

/-- A word that has the bits of a row decodes to an instruction of that row: the bits fix the family and the selector. -/
theorem decode_of_row_matches {w : Word} {j : Instr} (h : j.row.matches w = true) :
    ∃ i, decode w = .ok i ∧ i.row = j.row := by
  rw [OpcodeRow.matches, beq_iff_eq] at h
  have hf : family w = family j.row.pattern := by rw [← h, family_and_mask]
  rw [decode, hf]
  cases j <;> simp only [Instr.row] at h ⊢
  case cls | ret =>
    have hs := (fieldNN_and_mask w).symm.trans (congrArg fieldNN h)
    show ∃ i, decodeFamily0 w = .ok i ∧ _
    rw [decodeFamily0, hs]
    exact ⟨_, rfl, rfl⟩
  case ldReg | orReg | andReg | xorReg | addReg | sub | shr | subn | shl =>
    have hs := (fieldN_and_mask w).symm.trans (congrArg fieldN h)
    show ∃ i, decodeFamily8 w = .ok i ∧ _
    rw [decodeFamily8, hs]
    exact ⟨_, rfl, rfl⟩
  case skp | sknp =>
    have hs := (fieldNN_and_mask w).symm.trans (congrArg fieldNN h)
    show ∃ i, decodeFamilyE w = .ok i ∧ _
    rw [decodeFamilyE, hs]
    exact ⟨_, rfl, rfl⟩
  case ldVxDt | ldVxK | ldDtVx | ldStVx | addI | ldF | ldB | storeRegs | loadRegs =>
    have hs := (fieldNN_and_mask w).symm.trans (congrArg fieldNN h)
    show ∃ i, decodeFamilyF w = .ok i ∧ _
    rw [decodeFamilyF, hs]
    exact ⟨_, rfl, rfl⟩
  all_goals exact ⟨_, rfl, rfl⟩

open Laws.EncodingInRow in
/-- Every instruction's encoding belongs to its own row. -/
theorem row_matches_encode (i : Instr) : i.row.matches (encode i) = true := by
  cases i
  exacts [cls, ret, jp _, call _, seByte _ _, sneByte _ _, seReg _ _, ldByte _ _, addByte _ _, ldReg _ _, orReg _ _,
    andReg _ _, xorReg _ _, addReg _ _, sub _ _, shr _, subn _ _, shl _, sneReg _ _, ldI _, jpV0 _, rnd _ _, drw _ _ _,
    skp _, sknp _, ldVxDt _, ldVxK _, ldDtVx _, ldStVx _, addI _, ldF _, ldB _, storeRegs _, loadRegs _]

/-- A row looks at no bit that its instructions do not look at. -/
theorem usedBits_and_mask (i : Instr) : i.usedBits &&& i.row.mask = i.row.mask := by
  cases i
  case cls | ret => exact BitVec.and_self
  case seReg | sneReg => exact show 0xFFF0#16 &&& 0xF000#16 = 0xF000#16 by decide
  case shr | shl => exact show 0xFF0F#16 &&& 0xF00F#16 = 0xF00F#16 by decide
  all_goals exact BitVec.allOnes_and

/-- A word has the bits of the row of the instruction it decodes to: they are among the used bits, which the encoding keeps. -/
theorem row_matches_of_decode {w : Word} {i : Instr} (h : decode w = .ok i) : i.row.matches w = true := by
  have hrow := row_matches_encode i
  rw [OpcodeRow.matches, beq_iff_eq] at hrow ⊢
  rw [← hrow, encodeOfDecodeClearsOnlyUnusedBits w i h, BitVec.and_assoc, usedBits_and_mask]

/-- Settles O5: each direction of the match is a lemma above. -/
theorem decodeAgreesWithTheOpcodeTable : Obligations.DecodeAgreesWithTheOpcodeTable := fun w j => by
  refine ⟨decode_of_row_matches, fun ⟨i, hi, hrow⟩ => ?_⟩
  rw [← hrow]
  exact row_matches_of_decode hi

/-- Settles O1: the decoder evaluated on the thirteen closed terms. -/
theorem writtenOutWordsDecode : Obligations.WrittenOutWordsDecode := by
  unfold Obligations.WrittenOutWordsDecode
  decide

end Sys2Proof
end

section
/-! PROOFS. One rule for each way an instruction goes that checks something first: the state it answers under the condition of
that way. -/

namespace Sys2Proof.Machine

theorem exec_ret_pops (s : State) (h : s.sp.val ≠ 0) :
    exec .ret s = .next { s with sp := ⟨s.sp.val - 1, by omega⟩, pc := s.stack[s.sp.val - 1] } := by
  rw [exec, execRet, State.pop_ok s h]
  rfl

theorem exec_ret_underflows (s : State) (h : s.sp.val = 0) : exec .ret s = .next (s.raise ⟨.stackUnderflow, none⟩) := by
  rw [exec, execRet, State.pop_error s h]
  rfl

theorem exec_call_pushes (nnn : BitVec 12) (s : State) (h : s.sp.val < 16) : exec (.call nnn) s = .next { s with
    stack := s.stack.set s.sp.val (s.pc + 2) h, sp := ⟨s.sp.val + 1, Nat.succ_lt_succ h⟩, pc := zext12 nnn } := by
  rw [exec, execCall, State.push_ok s _ h]
  rfl

theorem exec_call_overflows (nnn : BitVec 12) (s : State) (h : s.sp.val = 16) :
    exec (.call nnn) s = .next (s.raise ⟨.stackOverflow, none⟩) := by
  rw [exec, execCall, State.push_error s _ h]
  rfl

theorem exec_addByte_flagging (x : Reg) (nn : Byte) (s : State) (h : s.cfg.addImmWritesVf = true) :
    exec (.addByte x nn) s = .next (s.setResultAndFlag x (s.reg x + nn) (carryOut (s.reg x) nn)).advance :=
  congrArg Host.Outcome.next (if_pos h)

theorem exec_addByte_plain (x : Reg) (nn : Byte) (s : State) (h : s.cfg.addImmWritesVf = false) :
    exec (.addByte x nn) s = .next (s.setReg x (s.reg x + nn)).advance :=
  congrArg Host.Outcome.next (if_neg (by simp [h]))

theorem exec_rnd_drawn (x : Reg) (nn : Byte) (s : State) {b : Byte} (h : s.rnd = some b) :
    exec (.rnd x nn) s = .next (s.setReg x (b &&& nn)).advance := by
  rw [exec, execRnd, drawByte, h]
  rfl

theorem exec_rnd_unavailable (x : Reg) (nn : Byte) (s : State) (h : s.rnd = none) :
    exec (.rnd x nn) s = .next (s.raise ⟨.entropyUnavailable, none⟩) := by
  rw [exec, execRnd, drawByte, h]
  rfl

theorem exec_ldVxK_latched (x : Reg) (s : State) (h : s.wait = true ∧ s.klValid = true) : exec (.ldVxK x) s =
    .next { (s.setReg x (zext4 s.klKey)).advance with klValid := false, wait := false } :=
  congrArg Host.Outcome.next (if_pos (Bool.and_eq_true_iff.2 h))

theorem exec_ldVxK_waiting (x : Reg) (s : State) (h : ¬ (s.wait = true ∧ s.klValid = true)) :
    exec (.ldVxK x) s = .next { s.signalAwait with wait := true } :=
  congrArg Host.Outcome.next (if_neg (by rwa [Bool.and_eq_true]))

/-! ### Accesses to memory at `I` (R41, R47) -/

theorem exec_ldB_inRange (x : Reg) (s : State) (h : s.i.toNat + 3 ≤ memSize) : exec (.ldB x) s =
    .next { s with mem := s.mem.writeBytes s.cfg s.i.toNat (bcdDigits (s.reg x)), pc := s.pc + 2 } :=
  (execLdB_cases x s).elim And.right fun ⟨h', _⟩ => absurd h (Nat.not_le.2 h')

theorem exec_ldB_outOfRange (x : Reg) (s : State) (h : memSize < s.i.toNat + 3) : exec (.ldB x) s =
    .next (s.raise ⟨.addressOutOfRange, some (max s.i.toNat memSize)⟩) :=
  (execLdB_cases x s).elim (fun ⟨h', _⟩ => absurd h (Nat.not_lt.2 h')) And.right

theorem exec_storeRegs_inRange (x : Reg) (s : State) (h : s.i.toNat + (x.toNat + 1) ≤ memSize) : exec (.storeRegs x) s =
    .next { s with mem := s.mem.writeBytes s.cfg s.i.toNat (s.regsUpTo x), pc := s.pc + 2 } :=
  (execStoreRegs_cases x s).elim And.right fun ⟨h', _⟩ => absurd h (Nat.not_le.2 h')

theorem exec_storeRegs_outOfRange (x : Reg) (s : State) (h : memSize < s.i.toNat + (x.toNat + 1)) :
    exec (.storeRegs x) s = .next (s.raise ⟨.addressOutOfRange, some (max s.i.toNat memSize)⟩) :=
  (execStoreRegs_cases x s).elim (fun ⟨h', _⟩ => absurd h (Nat.not_lt.2 h')) And.right

theorem exec_loadRegs_inRange (x : Reg) (s : State) (h : s.i.toNat + (x.toNat + 1) ≤ memSize) :
    exec (.loadRegs x) s = .next { s with
      v := loadBlock s.v x ((List.range (x.toNat + 1)).map fun k => s.mem.read s.cfg (s.i.toNat + k)), pc := s.pc + 2 } :=
  (execLoadRegs_cases x s).elim And.right fun ⟨h', _⟩ => absurd h (Nat.not_le.2 h')

theorem exec_loadRegs_outOfRange (x : Reg) (s : State) (h : memSize < s.i.toNat + (x.toNat + 1)) :
    exec (.loadRegs x) s = .next (s.raise ⟨.addressOutOfRange, some (max s.i.toNat memSize)⟩) :=
  (execLoadRegs_cases x s).elim (fun ⟨h', _⟩ => absurd h (Nat.not_lt.2 h')) And.right

theorem exec_drw_inRange (x y : Reg) (n : BitVec 4) (s : State) (h : s.i.toNat + spriteRows s.cfg n ≤ memSize) :
    exec (.drw x y n) s = .next (s.drawn x y n) :=
  (execDrw_cases x y n s).elim And.right fun ⟨h', _⟩ => absurd h (Nat.not_le.2 h')

theorem exec_drw_outOfRange (x y : Reg) (n : BitVec 4) (s : State) (h : memSize < s.i.toNat + spriteRows s.cfg n) :
    exec (.drw x y n) s = .next (s.raise ⟨.addressOutOfRange, some (max s.i.toNat memSize)⟩) :=
  (execDrw_cases x y n s).elim (fun ⟨h', _⟩ => absurd h (Nat.not_lt.2 h')) And.right

end Sys2Proof.Machine
end

section
/-! PROOFS. What an instruction can do, said once for all of them: it completes, and then its program counter, its signals, its
registers and the rest of the state are those of the spec's tables, or it raises a fault and does nothing else. The claims about
every instruction follow. -/

namespace Sys2Proof.Machine

/-! ### What an instruction that completes leaves -/

/-- The state that only the instructions listed for it write (R28, R48), and the state that no instruction writes (R19). -/
def KeepsSpecial (i : Instr) (s t : State) : Prop :=
  (t.mem ≠ s.mem → (∃ x, i = .ldB x) ∨ ∃ x, i = .storeRegs x) ∧
  (t.i ≠ s.i → (∃ nnn, i = .ldI nnn) ∨ (∃ x, i = .addI x) ∨ ∃ x, i = .ldF x) ∧
  (t.dt ≠ s.dt → ∃ x, i = .ldDtVx x) ∧ (t.st ≠ s.st → ∃ x, i = .ldStVx x) ∧
  (t.stack ≠ s.stack → ∃ nnn, i = .call nnn) ∧ (t.sp ≠ s.sp → (∃ nnn, i = .call nnn) ∨ i = .ret) ∧
  (t.fb ≠ s.fb ∨ t.dirty ≠ s.dirty → i = .cls ∨ ∃ x y n, i = .drw x y n) ∧
  (t.wait ≠ s.wait ∨ t.klValid ≠ s.klValid → ∃ x, i = .ldVxK x) ∧
  t.keys = s.keys ∧ t.klKey = s.klKey

theorem keepsSpecial_refl (i : Instr) (s : State) : KeepsSpecial i s s := by
  simp [KeepsSpecial]

/-- `t` is a state that `i` may leave when it completes in `s`, by the spec's tables of program counters, signals and
destinations. -/
structure Completes (i : Instr) (s t : State) : Prop where
  cfg : t.cfg = s.cfg
  fault : t.fault = s.fault
  pc : t.pc = i.pcAfter s
  signals : s.out = {} → t.out.signals = i.signals s
  regs : ∀ k, i.names k = false → (k = VF → i.writesFlag s.cfg = false) → t.reg k = s.reg k
  special : KeepsSpecial i s t

section
variable {i : Instr} {s : State}

/-- A transfer of control. -/
theorem completes_setPc {p : Word} (hpc : p = i.pcAfter s) (hsig : i.signals s = {}) : Completes i s (s.setPc p) where
  cfg := rfl
  fault := rfl
  pc := hpc
  signals hout := hsig ▸ congrArg Output.signals hout
  regs _ _ _ := rfl
  special := keepsSpecial_refl i s

/-- A skip. -/
theorem completes_skipIf {c : Bool} {p : Prop} [Decidable p] (h : c = true ↔ p)
    (hpc : i.pcAfter s = if p then s.pc + 4 else s.pc + 2) (hsig : i.signals s = {}) : Completes i s (s.skipIf c) := by
  rw [State.skipIf_eq_of_iff h]
  exact completes_setPc hpc.symm hsig

/-- A write of the named destination. -/
theorem completes_setReg {x : Reg} {b : Byte} (hnames : ∀ k, i.names k = (k == x)) (hpc : i.pcAfter s = s.pc + 2)
    (hsig : i.signals s = {}) : Completes i s (s.setReg x b).advance where
  cfg := rfl
  fault := rfl
  pc := hpc.symm
  signals hout := hsig ▸ congrArg Output.signals hout
  regs k hk _ := by
    have hx : x ≠ k := fun h => by simp [hnames, h] at hk
    rw [State.reg_advance, State.reg_setReg, if_neg hx]
  special := keepsSpecial_refl i s

/-- A write of the named destination and of the flag. -/
theorem completes_setResultAndFlag {x : Reg} {b : Byte} {f : Bool} (hnames : ∀ k, i.names k = (k == x))
    (hflag : i.writesFlag s.cfg = true) (hpc : i.pcAfter s = s.pc + 2) (hsig : i.signals s = {}) :
    Completes i s (s.setResultAndFlag x b f).advance where
  cfg := rfl
  fault := rfl
  pc := hpc.symm
  signals hout := hsig ▸ congrArg Output.signals hout
  regs k hk hkf := by
    have hx : x ≠ k := fun h => by simp [hnames, h] at hk
    have hf : VF ≠ k := fun h => by simp [hkf h.symm] at hflag
    rw [State.reg_advance, State.reg_setResultAndFlag, if_neg hf, if_neg hx]
  special := keepsSpecial_refl i s

/-- A write of special state that the instruction is listed for. -/
theorem completes_of_special {t : State} (hframe : t.cfg = s.cfg ∧ t.fault = s.fault ∧ t.out = s.out ∧ t.v = s.v)
    (hpc : t.pc = i.pcAfter s) (hsig : i.signals s = {}) (hspecial : KeepsSpecial i s t) : Completes i s t := by
  obtain ⟨hcfg, hfault, hout, hv⟩ := hframe
  exact ⟨hcfg, hfault, hpc, fun h => by rw [hout, h, hsig], fun k _ _ => by rw [State.reg, State.reg, hv], hspecial⟩

end

theorem completes_cls (s : State) :
    Completes .cls s ({ s with fb := Framebuffer.clear, dirty := true } : State).signalRedraw.advance where
  cfg := rfl
  fault := rfl
  pc := rfl
  signals hout := by simp [hout, Instr.signals]
  regs _ _ _ := rfl
  special := by simp [KeepsSpecial]

theorem completes_drw (x y : Reg) (n : BitVec 4) (s : State) : Completes (.drw x y n) s (s.drawn x y n) where
  cfg := rfl
  fault := rfl
  pc := rfl
  signals hout := by simp [State.drawn, hout, Instr.signals]
  regs k _ hk := by
    have hf : VF ≠ k := fun h => by simpa [Instr.writesFlag] using hk h.symm
    simp only [State.drawn, State.reg_advance, State.reg_signalRedraw, State.reg_setReg, if_neg hf]
    rfl
  special := by simp [KeepsSpecial, State.drawn]

theorem completes_ret (s : State) (_h : s.sp.val ≠ 0) :
    Completes .ret s { s with sp := ⟨s.sp.val - 1, by omega⟩, pc := s.stack[s.sp.val - 1] } := by
  have hlt : s.sp.val - 1 < 16 := by omega
  exact completes_of_special ⟨rfl, rfl, rfl, rfl⟩ (by simp [Instr.pcAfter, hlt]) rfl (by simp [KeepsSpecial])

/-- The registers above `x` are kept by a block load, whatever was read. -/
theorem reg_loadBlock_above (s : State) {x k : Reg} (bs : List Byte) (h : x.toNat < k.toNat) :
    State.reg { s with v := loadBlock s.v x bs } k = s.reg k := by
  simp [State.reg, loadBlock, regIndex, Nat.not_le.2 h]

theorem completes_loadRegs (x : Reg) (bs : List Byte) (s : State) :
    Completes (.loadRegs x) s { s with v := loadBlock s.v x bs, pc := s.pc + 2 } where
  cfg := rfl
  fault := rfl
  pc := rfl
  signals hout := congrArg Output.signals hout
  regs k hk _ := reg_loadBlock_above s bs (by simpa [Instr.names] using hk)
  special := by simp [KeepsSpecial]

/-- LD Vx, K that completes. -/
theorem completes_ldVxK_latched (x : Reg) (s : State) (h : s.wait = true ∧ s.klValid = true) :
    Completes (.ldVxK x) s { (s.setReg x (zext4 s.klKey)).advance with klValid := false, wait := false } where
  cfg := rfl
  fault := rfl
  pc := by simp [Instr.pcAfter, h]
  signals hout := by simp [Instr.signals, h, hout]
  regs k hk _ := by
    have hx : x ≠ k := fun e => by simp [Instr.names, e] at hk
    exact (s.reg_setReg x k _).trans (if_neg hx)
  special := by simp [KeepsSpecial]

/-- LD Vx, K that waits. -/
theorem completes_ldVxK_waiting (x : Reg) (s : State) (h : ¬ (s.wait = true ∧ s.klValid = true)) :
    Completes (.ldVxK x) s { s.signalAwait with wait := true } where
  cfg := rfl
  fault := rfl
  pc := by simp only [Instr.pcAfter, Bool.and_eq_true, if_neg h, State.signalAwait_pc]
  signals hout := by simp only [Instr.signals, Bool.and_eq_true, if_neg h, State.signalAwait_out, hout]
  regs _ _ _ := rfl
  special := by simp [KeepsSpecial]

/-- R80, R86: every instruction completes, or raises a fault in the state at its start. -/
theorem exec_cases (i : Instr) (s : State) :
    (∃ t, exec i s = .next t ∧ Completes i s t) ∨ ∃ e, exec i s = .next (s.raise e) := by
  cases i with
  | cls => exact .inl ⟨_, rfl, completes_cls s⟩
  | ret =>
    obtain ⟨h, e⟩ | ⟨-, e⟩ := execRet_cases s
    · exact .inl ⟨_, e, completes_ret s h⟩
    · exact .inr ⟨_, e⟩
  | jp nnn => exact .inl ⟨_, rfl, completes_setPc rfl rfl⟩
  | call nnn =>
    obtain ⟨h, e⟩ | ⟨-, e⟩ := execCall_cases nnn s
    · exact .inl ⟨_, e, completes_of_special ⟨rfl, rfl, rfl, rfl⟩ rfl rfl (by simp [KeepsSpecial])⟩
    · exact .inr ⟨_, e⟩
  | seByte x nn => exact .inl ⟨_, rfl, completes_skipIf beq_iff_eq rfl rfl⟩
  | sneByte x nn => exact .inl ⟨_, rfl, completes_skipIf bne_iff_ne rfl rfl⟩
  | seReg x y => exact .inl ⟨_, rfl, completes_skipIf beq_iff_eq rfl rfl⟩
  | ldByte x nn => exact .inl ⟨_, rfl, completes_setReg (fun _ => rfl) rfl rfl⟩
  | addByte x nn =>
    obtain ⟨h, e⟩ | ⟨-, e⟩ := execAddByte_cases x nn s
    · exact .inl ⟨_, e, completes_setResultAndFlag (fun _ => rfl) h rfl rfl⟩
    · exact .inl ⟨_, e, completes_setReg (fun _ => rfl) rfl rfl⟩
  | ldReg x y => exact .inl ⟨_, rfl, completes_setReg (fun _ => rfl) rfl rfl⟩
  | orReg x y => exact .inl ⟨_, rfl, completes_setReg (fun _ => rfl) rfl rfl⟩
  | andReg x y => exact .inl ⟨_, rfl, completes_setReg (fun _ => rfl) rfl rfl⟩
  | xorReg x y => exact .inl ⟨_, rfl, completes_setReg (fun _ => rfl) rfl rfl⟩
  | addReg x y => exact .inl ⟨_, rfl, completes_setResultAndFlag (fun _ => rfl) rfl rfl rfl⟩
  | sub x y => exact .inl ⟨_, rfl, completes_setResultAndFlag (fun _ => rfl) rfl rfl rfl⟩
  | shr x => exact .inl ⟨_, rfl, completes_setResultAndFlag (fun _ => rfl) rfl rfl rfl⟩
  | subn x y => exact .inl ⟨_, rfl, completes_setResultAndFlag (fun _ => rfl) rfl rfl rfl⟩
  | shl x => exact .inl ⟨_, rfl, completes_setResultAndFlag (fun _ => rfl) rfl rfl rfl⟩
  | sneReg x y => exact .inl ⟨_, rfl, completes_skipIf bne_iff_ne rfl rfl⟩
  | ldI nnn => exact .inl ⟨_, rfl, completes_of_special ⟨rfl, rfl, rfl, rfl⟩ rfl rfl (by simp [KeepsSpecial])⟩
  | jpV0 nnn => exact .inl ⟨_, rfl, completes_setPc rfl rfl⟩
  | rnd x nn =>
    obtain ⟨b, -, e⟩ | ⟨-, e⟩ := execRnd_cases x nn s
    · exact .inl ⟨_, e, completes_setReg (fun _ => rfl) rfl rfl⟩
    · exact .inr ⟨_, e⟩
  | drw x y n =>
    obtain ⟨-, e⟩ | ⟨-, e⟩ := execDrw_cases x y n s
    · exact .inl ⟨_, e, completes_drw x y n s⟩
    · exact .inr ⟨_, e⟩
  | skp x => exact .inl ⟨_, rfl, completes_skipIf (s.keyHeld_eq x ▸ Iff.rfl) rfl rfl⟩
  | sknp x =>
    exact .inl ⟨_, rfl, completes_skipIf (p := ¬ s.keys.getLsbD ((s.reg x).toNat % 16) = true)
      (by simp [s.keyHeld_eq x]) (ite_not ..).symm rfl⟩
  | ldVxDt x => exact .inl ⟨_, rfl, completes_setReg (fun _ => rfl) rfl rfl⟩
  | ldVxK x =>
    obtain ⟨h, e⟩ | ⟨h, e⟩ := execLdVxK_cases x s
    · exact .inl ⟨_, e, completes_ldVxK_latched x s h⟩
    · exact .inl ⟨_, e, completes_ldVxK_waiting x s h⟩
  | ldDtVx x => exact .inl ⟨_, rfl, completes_of_special ⟨rfl, rfl, rfl, rfl⟩ rfl rfl (by simp [KeepsSpecial])⟩
  | ldStVx x => exact .inl ⟨_, rfl, completes_of_special ⟨rfl, rfl, rfl, rfl⟩ rfl rfl (by simp [KeepsSpecial])⟩
  | addI x => exact .inl ⟨_, rfl, completes_of_special ⟨rfl, rfl, rfl, rfl⟩ rfl rfl (by simp [KeepsSpecial])⟩
  | ldF x => exact .inl ⟨_, rfl, completes_of_special ⟨rfl, rfl, rfl, rfl⟩ rfl rfl (by simp [KeepsSpecial])⟩
  | ldB x =>
    obtain ⟨-, e⟩ | ⟨-, e⟩ := execLdB_cases x s
    · exact .inl ⟨_, e, completes_of_special ⟨rfl, rfl, rfl, rfl⟩ rfl rfl (by simp [KeepsSpecial])⟩
    · exact .inr ⟨_, e⟩
  | storeRegs x =>
    obtain ⟨-, e⟩ | ⟨-, e⟩ := execStoreRegs_cases x s
    · exact .inl ⟨_, e, completes_of_special ⟨rfl, rfl, rfl, rfl⟩ rfl rfl (by simp [KeepsSpecial])⟩
    · exact .inr ⟨_, e⟩
  | loadRegs x =>
    obtain ⟨-, e⟩ | ⟨-, e⟩ := execLoadRegs_cases x s
    · exact .inl ⟨_, e, completes_loadRegs x _ s⟩
    · exact .inr ⟨_, e⟩

/-- The state an instruction answers is one it may complete with, or the fault's entry. -/
theorem completes_or_raise_of_exec {i : Instr} {s t : State} (h : exec i s = .next t) :
    Completes i s t ∨ ∃ e, t = s.raise e := by
  obtain ⟨u, hu, hc⟩ | ⟨e, hu⟩ := exec_cases i s
  · cases hu.symm.trans h
    exact .inl hc
  · cases hu.symm.trans h
    exact .inr ⟨e, rfl⟩

/-- A fault's entry is the state of `Raises`. -/
theorem raises_raise (s : State) (e : Raise) : Raises s (s.raise e) e.fault e.info := rfl

/-- A fault's entry writes no special state. -/
theorem keepsSpecial_raise (i : Instr) (s : State) (e : Raise) : KeepsSpecial i s (s.raise e) := keepsSpecial_refl i s

/-! ### The claims about every instruction -/

/-- Settles O11: an instruction that completes keeps FAULT, so one that changes it has raised. -/
theorem faultsArePrecise : Obligations.FaultsArePrecise := by
  intro i s t h hf
  obtain hc | ⟨e, rfl⟩ := completes_or_raise_of_exec h
  · exact absurd hc.fault hf
  · exact ⟨e.fault, e.info, raises_raise s e⟩

/-- Settles O13: completing gives the table's value, raising and an unrecognized word keep `PC`. -/
theorem programCounterFollowsItsClass : Obligations.ProgramCounterFollowsItsClass := by
  refine fun s t hs => ⟨fun i h => ?_, fun w hw h => ?_⟩
  · obtain hc | ⟨e, rfl⟩ := completes_or_raise_of_exec h
    · rw [if_pos (hc.fault.trans hs), hc.pc]
    · rw [if_neg (by simp), State.raise_pc]
  · rw [execWord, hw] at h
    cases h
    rfl

/-- Settles O14: completing gives the table's signals, raising none. -/
theorem signalsOfAnInstruction : Obligations.SignalsOfAnInstruction := by
  intro i s t hs hout h
  obtain hc | ⟨e, rfl⟩ := completes_or_raise_of_exec h
  · rw [if_pos (hc.fault.trans hs), hc.signals hout]
  · rw [if_neg (by simp), State.raise_out]

/-- Settles O15: completing changes named registers and the flag alone, raising none. -/
theorem registersChangeOnlyWhereNamed : Obligations.RegistersChangeOnlyWhereNamed := by
  intro i s t k h hk hflag
  obtain hc | ⟨e, rfl⟩ := completes_or_raise_of_exec h
  · exact hc.regs k hk hflag
  · rfl

/-- Settles O16: completing writes the listed state alone, raising none of it. -/
theorem specialStateChangesOnlyByItsInstructions : Obligations.SpecialStateChangesOnlyByItsInstructions := by
  intro i s t h
  obtain hc | ⟨e, rfl⟩ := completes_or_raise_of_exec h
  · exact hc.special
  · exact keepsSpecial_raise i s e

/-- Executing answers a next state with the same configuration. -/
theorem exec_answers (i : Instr) (s : State) : ∃ t, exec i s = .next t ∧ t.cfg = s.cfg := by
  obtain ⟨t, ht, hc⟩ | ⟨e, ht⟩ := exec_cases i s
  · exact ⟨t, ht, hc.cfg⟩
  · exact ⟨_, ht, rfl⟩

/-- A word, an instruction's or an unrecognized one, answers a next state with the same configuration. -/
theorem execWord_answers (w : Word) (s : State) : ∃ t, execWord w s = .next t ∧ t.cfg = s.cfg := by
  obtain ⟨i, -, he⟩ | ⟨-, -, he⟩ := execWord_cases w s
  · exact he ▸ exec_answers i s
  · exact ⟨_, he, rfl⟩

/-- Every event answers a next state with the same configuration. -/
theorem performEvent_answers (e : Event) (s : State) : ∃ t, performEvent e s = .next t ∧ t.cfg = s.cfg := by
  cases e with
  | reset => exact ⟨_, rfl, rfl⟩
  | load image =>
    refine ⟨_, rfl, ?_⟩
    cases h : imageFits image
    · rw [State.loadImage_oversize s h]
    · rw [State.loadImage_fits s h, State.coreReset_cfg]
  | step rnd =>
    obtain ⟨-, he⟩ | ⟨-, -, he⟩ | ⟨-, -, he⟩ := stepEvent_cases rnd s
    · exact ⟨_, he, rfl⟩
    · exact ⟨_, he, rfl⟩
    · rw [performEvent, he]
      exact execWord_answers _ (s.beginStep rnd)
  | tick => exact ⟨_, rfl, rfl⟩
  | setKey k pressed => exact ⟨_, rfl, rfl⟩
  | readVideo => exact ⟨_, rfl, rfl⟩

/-- Choosing the next event does not touch the configuration. -/
theorem State.nextEvent_cfg (s : State) : s.nextEvent.2.cfg = s.cfg := by
  unfold State.nextEvent
  split <;> rfl

/-- Settles O12: a step is an event performed. -/
theorem everyStepAnswersANextState : Obligations.EveryStepAnswersANextState := by
  refine ⟨exec_answers, fun s => ?_⟩
  rw [← s.nextEvent_cfg]
  exact performEvent_answers _ _

/-! ### The inputs an instruction does not read -/

/-- What a checked operation does with other inputs, where neither its check nor its continuation reads them. -/
theorem State.orRaise_with_inputs {α : Type} (s : State) (r : Except Raise α) (k k' : α → State) (b : Option Byte)
    (es : List Event) (hk : ∀ a, k' a = { k a with rnd := b, pending := es }) :
    State.orRaise { s with rnd := b, pending := es } r k' = { s.orRaise r k with rnd := b, pending := es } := by
  cases r with
  | ok a => exact hk a
  | error e => rfl

/-- R153, log entry 2: no meaning but that of RND reads the entropy input, and none reads the pending events: with other ones
it does the same, and leaves them. -/
theorem exec_with_inputs {i : Instr} {s t : State} (r : Option Byte) (es : List Event)
    (hrnd : ∀ x nn, i = .rnd x nn → r = s.rnd) (h : exec i s = .next t) :
    exec i { s with rnd := r, pending := es } = .next { t with rnd := r, pending := es } := by
  cases i
  case rnd x nn =>
    obtain rfl := hrnd x nn rfl
    cases hb : s.rnd with
    | some b =>
      cases (exec_rnd_drawn x nn s hb).symm.trans h
      exact exec_rnd_drawn x nn _ rfl
    | none =>
      cases (exec_rnd_unavailable x nn s hb).symm.trans h
      exact exec_rnd_unavailable x nn _ rfl
  case drw | ldB | storeRegs | loadRegs =>
    cases h
    exact congrArg Host.Outcome.next (State.orRaise_with_inputs _ _ _ _ _ _ fun _ => rfl)
  case ret =>
    by_cases hsp : s.sp.val = 0
    · cases (exec_ret_underflows s hsp).symm.trans h
      exact exec_ret_underflows _ hsp
    · cases (exec_ret_pops s hsp).symm.trans h
      exact exec_ret_pops _ hsp
  case call nnn =>
    by_cases hsp : s.sp.val < 16
    · cases (exec_call_pushes nnn s hsp).symm.trans h
      exact exec_call_pushes nnn { s with rnd := r, pending := es } hsp
    · cases (exec_call_overflows nnn s (by omega)).symm.trans h
      exact exec_call_overflows nnn _ (by show s.sp.val = 16; omega)
  case addByte x nn =>
    cases hc : s.cfg.addImmWritesVf
    · cases (exec_addByte_plain x nn s hc).symm.trans h
      exact exec_addByte_plain x nn _ hc
    · cases (exec_addByte_flagging x nn s hc).symm.trans h
      exact exec_addByte_flagging x nn _ hc
  case ldVxK x =>
    by_cases hk : s.wait = true ∧ s.klValid = true
    · cases (exec_ldVxK_latched x s hk).symm.trans h
      exact exec_ldVxK_latched x _ hk
    · cases (exec_ldVxK_waiting x s hk).symm.trans h
      exact exec_ldVxK_waiting x _ hk
  all_goals
    cases h
    rfl

/-- No instruction writes its inputs. -/
theorem exec_keeps_inputs {i : Instr} {s t : State} (h : exec i s = .next t) : t.rnd = s.rnd ∧ t.pending = s.pending := by
  have hsame : t = { t with rnd := s.rnd, pending := s.pending } :=
    Host.Outcome.next.inj (h.symm.trans (exec_with_inputs s.rnd s.pending (fun _ _ _ => rfl) h))
  exact ⟨(congrArg State.rnd hsame :), (congrArg State.pending hsame :)⟩

/-- Settles O17: with another entropy input and the same pending events. -/
theorem onlyRndReadsTheEntropyInput : Obligations.OnlyRndReadsTheEntropyInput := by
  intro i s t r hi h
  rw [(exec_keeps_inputs h).2]
  exact exec_with_inputs r s.pending (fun x nn e => absurd e (hi x nn)) h

end Sys2Proof.Machine
end

section
/-! PROOFS. The invariant of the reachable states (10_state.md rule R27): what it does not look at, what executing an instruction
does to each of its clauses, and that every event, so every step, keeps it. -/

namespace Sys2Proof.Machine

/-! ### States the invariant does not tell apart -/

/-- The invariant does not look at the timers, the keys, `DIRTY`, the key of the latch, or the model's own inputs and outputs. -/
theorem State.Inv.congr {s t : State} (hs : s.Inv)
    (h : t = { s with dt := t.dt, st := t.st, keys := t.keys, dirty := t.dirty, klKey := t.klKey, rnd := t.rnd,
                      out := t.out, pending := t.pending, draws := t.draws }) : t.Inv := by
  obtain ⟨hcfg, hmem, hlatch, hwait, hpc, hstack⟩ := hs
  rw [h]
  exact ⟨hcfg, hmem, hlatch, hwait, hpc, hstack⟩

/-- A fault raised outside a wait keeps the invariant. -/
theorem State.Inv.raise {s : State} (hs : s.Inv) (hw : s.wait = false) (e : Raise) : (s.raise e).Inv where
  cfgWf := hs.cfgWf
  memWf := hs.memWf
  latchInWait := hs.latchInWait
  waitAtKeyWait h := absurd h (by simp [hw])
  pcBound := hs.pcBound
  stackBound := hs.stackBound

/-- The reset state meets the invariant under every allowed configuration. -/
theorem resetOf_inv {c : Config} (hc : c.wf = true) : (State.resetOf c).Inv where
  cfgWf := hc
  memWf := rfl
  latchInWait h := nomatch h
  waitAtKeyWait h := nomatch h
  pcBound := .inr rfl
  stackBound _ hk := absurd hk (Nat.not_lt_zero _)

/-! ### What executing an instruction does to the clauses -/

/-- Every store that completes keeps memory canonical. -/
theorem exec_mem_wf {i : Instr} {s t : State} (hs : s.mem.wf s.cfg = true) (h : exec i s = .next t) :
    t.mem.wf t.cfg = true := by
  obtain hc | ⟨e, rfl⟩ := completes_or_raise_of_exec h
  · obtain ⟨hmem, -⟩ := hc.special
    by_cases hm : t.mem = s.mem
    · rwa [hc.cfg, hm]
    · obtain ⟨x, rfl⟩ | ⟨x, rfl⟩ := hmem hm
      · obtain ⟨hr, e⟩ | ⟨-, e⟩ := execLdB_cases x s
        · cases e.symm.trans h
          exact Memory.writeBytes_wf hs _ hr
        · cases e.symm.trans h
          exact hs
      · obtain ⟨hr, e⟩ | ⟨-, e⟩ := execStoreRegs_cases x s
        · cases e.symm.trans h
          exact Memory.writeBytes_wf hs _ (by rwa [State.length_regsUpTo])
        · cases e.symm.trans h
          exact hs
  · exact hs

/-- The valid entries of the stack are no higher than the first address above memory. -/
def State.StackBounded (s : State) : Prop := ∀ k : Fin 16, k.val < s.sp.val → s.stack[k].toNat ≤ 4096

/-- A CALL at an address that can be fetched pushes an address of memory or the one after it. -/
theorem exec_stackBounded {i : Instr} {s t : State} (hs : s.StackBounded) (hp : s.pc.toNat ≤ 4094)
    (h : exec i s = .next t) : t.StackBounded := by
  obtain hc | ⟨e, rfl⟩ := completes_or_raise_of_exec h
  · obtain ⟨-, -, -, -, hstack, hsp, -⟩ := hc.special
    by_cases hcall : ∃ nnn, i = .call nnn
    · obtain ⟨nnn, rfl⟩ := hcall
      obtain ⟨hlt, e⟩ | ⟨-, e⟩ := execCall_cases nnn s
      · cases e.symm.trans h
        intro k hk
        have hk : k.val < s.sp.val + 1 := hk
        show ((s.stack.set s.sp.val (s.pc + 2) hlt)[k]).toNat ≤ 4096
        simp only [Fin.getElem_fin, Vector.getElem_set]
        split
        · bv_omega
        · exact hs k (by omega)
      · cases e.symm.trans h
        exact hs
    · have hst : t.stack = s.stack := by_contra fun hne => hcall (hstack hne)
      have hle : t.sp.val ≤ s.sp.val := by
        by_cases hret : i = .ret
        · subst hret
          obtain ⟨-, e⟩ | ⟨-, e⟩ := execRet_cases s
          all_goals cases e.symm.trans h
          · exact Nat.sub_le _ _
          · exact le_rfl
        · have : t.sp = s.sp := by_contra fun hne => (hsp hne).elim hcall hret
          rw [this]
      intro k hk
      rw [hst]
      exact hs k (by omega)
  · exact hs

/-- From an address that can be fetched no instruction leads above 0x10FE, the highest target of JP V0. -/
theorem pcAfter_le {s : State} (hstack : s.StackBounded) (hp : s.pc.toNat ≤ 4094) (i : Instr)
    (hret : i = .ret → s.sp.val ≠ 0) : (i.pcAfter s).toNat ≤ 0x10FE := by
  have hseq : (s.pc + 2).toNat ≤ 0x10FE := by bv_omega
  have hskip : (s.pc + 4).toNat ≤ 0x10FE := by bv_omega
  cases i
  case ret =>
    have hsp := hret rfl
    have hlt : s.sp.val - 1 < 16 := by omega
    have htop := hstack ⟨s.sp.val - 1, hlt⟩ (by show s.sp.val - 1 < s.sp.val; omega)
    simp only [Instr.pcAfter, List.getD_eq_getElem?_getD, Vector.getElem?_toList, Vector.getElem?_eq_getElem hlt]
    exact htop.trans (by decide)
  case jp nnn | call nnn =>
    have := nnn.isLt
    simp only [Instr.pcAfter, BitVec.toNat_setWidth]
    omega
  case jpV0 nnn =>
    have hn := nnn.isLt
    have hv := (s.reg V0).isLt
    simp only [Instr.pcAfter, BitVec.toNat_add, BitVec.toNat_setWidth]
    omega
  case seByte | sneByte | seReg | sneReg | skp =>
    simp only [Instr.pcAfter]
    split
    exacts [hskip, hseq]
  case sknp =>
    simp only [Instr.pcAfter]
    split
    exacts [hseq, hskip]
  case ldVxK =>
    simp only [Instr.pcAfter]
    split
    exacts [hseq, hp.trans (by decide)]
  all_goals exact hseq

/-- Executing leaves `PC` where it was, or no higher than 0x10FE. -/
theorem exec_pc_le {i : Instr} {s t : State} (hstack : s.StackBounded) (hp : s.pc.toNat ≤ 4094) (hf : s.fault = none)
    (h : exec i s = .next t) : t.pc.toNat ≤ 0x10FE := by
  obtain hc | ⟨e, rfl⟩ := completes_or_raise_of_exec h
  · rw [hc.pc]
    refine pcAfter_le hstack hp i fun hi hsp => ?_
    subst hi
    cases (exec_ret_underflows s hsp).symm.trans h
    exact absurd hc.fault (by simp [hf])
  · exact hp.trans (by decide)

/-- An instruction other than LD Vx, K keeps the invariant where no wait is on. -/
theorem exec_inv_of_not_waiting {i : Instr} {s t : State} (hs : s.Inv) (hfetch : s.CanFetch) (hw : s.wait = false)
    (hi : ∀ x, i ≠ .ldVxK x) (h : exec i s = .next t) : t.Inv := by
  obtain ⟨hfault, hp⟩ := hfetch
  obtain hc | ⟨e, rfl⟩ := completes_or_raise_of_exec h
  · obtain ⟨-, -, -, -, -, -, -, hwait, -⟩ := hc.special
    have hsame : ¬ (t.wait ≠ s.wait ∨ t.klValid ≠ s.klValid) := fun hne => (hwait hne).elim hi
    obtain ⟨htw, htk⟩ : t.wait = s.wait ∧ t.klValid = s.klValid := by simpa using hsame
    exact {
      cfgWf := by rw [hc.cfg]; exact hs.cfgWf
      memWf := exec_mem_wf hs.memWf h
      latchInWait := by rw [htw, htk]; exact hs.latchInWait
      waitAtKeyWait := fun htrue => absurd (htw.symm.trans htrue) (by simp [hw])
      pcBound := .inl (exec_pc_le hs.stackBound hp hfault h)
      stackBound := exec_stackBounded hs.stackBound hp h }
  · exact hs.raise hw e

/-- LD Vx, K at `PC` keeps the invariant: it ends the wait and the latch together, or it waits where it stands. -/
theorem exec_ldVxK_inv {x : Reg} {s t : State} (hs : s.Inv) (hfetch : s.CanFetch) (hdec : decode s.word = .ok (.ldVxK x))
    (h : exec (.ldVxK x) s = .next t) : t.Inv := by
  by_cases hk : s.wait = true ∧ s.klValid = true
  · have hpc := exec_pc_le hs.stackBound hfetch.2 hfetch.1 h
    cases (exec_ldVxK_latched x s hk).symm.trans h
    exact ⟨hs.cfgWf, hs.memWf, nofun, nofun, .inl hpc, hs.stackBound⟩
  · cases (exec_ldVxK_waiting x s hk).symm.trans h
    exact ⟨hs.cfgWf, hs.memWf, fun _ => rfl, fun _ => ⟨hfetch, x, hdec⟩, hs.pcBound, hs.stackBound⟩

/-- The instruction at `PC` keeps the invariant: during a wait it is the LD Vx, K that waits. -/
theorem exec_inv {i : Instr} {s t : State} (hs : s.Inv) (hfetch : s.CanFetch) (hdec : decode s.word = .ok i)
    (h : exec i s = .next t) : t.Inv := by
  by_cases hi : ∃ x, i = .ldVxK x
  · obtain ⟨x, rfl⟩ := hi
    exact exec_ldVxK_inv hs hfetch hdec h
  · refine exec_inv_of_not_waiting hs hfetch ?_ (fun x e => hi ⟨x, e⟩) h
    refine Bool.eq_false_iff.2 fun hw => ?_
    obtain ⟨-, x, hx⟩ := hs.waitAtKeyWait hw
    exact hi ⟨x, Except.ok.inj (hdec.symm.trans hx)⟩

/-! ### Every event -/

/-- A STEP keeps the invariant. -/
theorem stepEvent_inv {rnd : Option Byte} {s t : State} (hs : s.Inv) (h : stepEvent rnd s = .next t) : t.Inv := by
  have hb : (s.beginStep rnd).Inv := hs.congr rfl
  obtain ⟨-, e⟩ | ⟨hfault, hp, e⟩ | ⟨hfault, hp, e⟩ := stepEvent_cases rnd s
  · cases e.symm.trans h
    exact hb
  · cases e.symm.trans h
    refine hb.raise (Bool.eq_false_iff.2 fun hw => ?_) _
    obtain ⟨⟨-, hpc⟩, -⟩ := hs.waitAtKeyWait hw
    simp only [memSize] at hp
    omega
  · rw [e] at h
    have hfetch : (s.beginStep rnd).CanFetch := ⟨hfault, by simp only [memSize] at hp; show s.pc.toNat ≤ 4094; omega⟩
    obtain ⟨i, hdec, hw⟩ | ⟨-, -, hw⟩ := execWord_cases (s.mem.wordAt s.cfg s.pc.toNat) (s.beginStep rnd)
    · exact exec_inv hb hfetch hdec (hw.symm.trans h)
    · cases hw.symm.trans h
      exact hb.congr rfl

/-- A LOAD keeps the invariant: an accepted image leaves memory canonical and everything else reset. -/
theorem loadImage_inv {s : State} (hs : s.Inv) (image : List Byte) : (s.loadImage image).Inv := by
  cases hfits : imageFits image
  · rw [State.loadImage_oversize s hfits]
    exact hs.congr rfl
  · have hmem := s.loadImage_wf hfits
    rw [State.loadImage_fits s hfits] at hmem ⊢
    obtain ⟨hcfg, -, hlatch, hwait, hpc, hstack⟩ := resetOf_inv hs.cfgWf
    exact ⟨hcfg, hmem, hlatch, nofun, hpc, hstack⟩

/-- SET_KEY keeps the invariant: it latches during a wait only. -/
theorem setKey_inv {s : State} (hs : s.Inv) (k : BitVec 4) (pressed : Bool) : (s.setKey k pressed).Inv := by
  obtain ⟨hcfg, hmem, hlatch, hwait, hpc, hstack⟩ := hs
  refine ⟨hcfg, hmem, fun h => ?_, hwait, hpc, hstack⟩
  have h : s.klValid = true ∨ s.latches k pressed = true := Bool.or_eq_true_iff.1 h
  obtain h | h := h
  · exact hlatch h
  · simp only [State.latches, Bool.and_eq_true] at h
    exact h.1.2

/-- Every event keeps the invariant. -/
theorem performEvent_inv {e : Event} {s t : State} (hs : s.Inv) (h : performEvent e s = .next t) : t.Inv := by
  cases e with
  | reset =>
    cases h
    exact (resetOf_inv hs.cfgWf).congr rfl
  | load image =>
    cases h
    exact loadImage_inv hs image
  | step rnd => exact stepEvent_inv hs h
  | tick =>
    cases h
    exact hs.congr rfl
  | setKey k pressed =>
    cases h
    exact setKey_inv hs k pressed
  | readVideo =>
    cases h
    exact hs.congr rfl

/-- Choosing the next event changes only the model's own inputs. -/
theorem nextEvent_inv {s : State} (hs : s.Inv) : s.nextEvent.2.Inv := by
  unfold State.nextEvent
  split <;> exact hs.congr rfl

/-- Settles O57: a step is the next event performed, and choosing and performing keep the invariant. -/
theorem everyStepKeepsTheInvariant : Obligations.EveryStepKeepsTheInvariant := fun _ _ hs h =>
  performEvent_inv (nextEvent_inv hs) h

/-- Settles O58: the reset state of any allowed configuration, the default one among them. -/
theorem resetMeetsTheInvariant : Obligations.ResetMeetsTheInvariant :=
  ⟨fun _ => resetOf_inv, resetOf_inv (by decide)⟩

end Sys2Proof.Machine
end

section
/-! PROOFS. The step cycle (40_step_cycle.md) and control flow (41_control_flow.md): what a STEP performs, what pending events
perform, and the jumps, skips, calls and returns. -/

namespace Sys2Proof.Machine

/-! ### A STEP (R80, R81) -/

/-- A STEP that can fetch runs the instruction that the word at `PC` decodes to. -/
theorem stepEvent_decoded {s : State} {i : Instr} (rnd : Option Byte) (hfetch : s.CanFetch) (hdec : decode s.word = .ok i) :
    stepEvent rnd s = exec i (s.beginStep rnd) := by
  obtain ⟨hfault, hpc⟩ := hfetch
  have hstep : stepEvent rnd s = execWord s.word (s.beginStep rnd) :=
    stepEvent_fetched rnd s hfault (by simp only [memSize]; omega)
  rw [hstep, execWord, hdec]

/-- The next event is the first pending one. -/
theorem step_of_pending {s : State} {e : Event} {es : List Event} (h : s.pending = e :: es) :
    step s = performEvent e { s with pending := es } := by
  rw [step, State.nextEvent, h]

/-- Where nothing is pending the next event is a STEP with a free entropy input. -/
theorem step_of_idle {s : State} (h : s.pending = []) :
    step s = performEvent (.step (Config.entropy s.draws)) { s with draws := s.draws + 1 } := by
  rw [step, State.nextEvent, h]

/-- Settles O6: the three ways to a STEP, each by what it fetches. -/
theorem stepRunsTheDecodedInstruction : Obligations.StepRunsTheDecodedInstruction := by
  refine fun s i hfetch hdec => ⟨fun rnd => stepEvent_decoded rnd hfetch hdec, fun rnd es hp => ?_, fun hp => ?_⟩
  · rw [step_of_pending hp]
    exact stepEvent_decoded (s := { s with pending := es }) rnd hfetch hdec
  · rw [step_of_idle hp]
    exact stepEvent_decoded (s := { s with draws := s.draws + 1 }) _ hfetch hdec

/-- Settles O10: the range check of the fetch fails. -/
theorem fetchAboveMemoryFaults : Obligations.FetchAboveMemoryFaults := fun s rnd hfault hpc =>
  ⟨_, stepEvent_fetchFault rnd s hfault (by simp only [memSize]; omega), rfl⟩

/-! ### Pending events (R151) -/

/-- No instruction reads or writes the pending events. -/
theorem exec_with_pending {i : Instr} {s t : State} (es : List Event) (h : exec i s = .next t) :
    exec i { s with pending := es } = .next { t with pending := es } := by
  rw [(exec_keeps_inputs h).1]
  exact exec_with_inputs s.rnd es (fun _ _ _ => rfl) h

/-- A STEP neither reads nor writes the pending events. -/
theorem stepEvent_with_pending {rnd : Option Byte} {s t : State} (es : List Event) (h : stepEvent rnd s = .next t) :
    stepEvent rnd { s with pending := es } = .next { t with pending := es } := by
  obtain ⟨hfault, e⟩ | ⟨hfault, hp, e⟩ | ⟨hfault, hp, e⟩ := stepEvent_cases rnd s
  · cases e.symm.trans h
    exact stepEvent_faulted rnd _ hfault
  · cases e.symm.trans h
    exact stepEvent_fetchFault rnd _ hfault hp
  · refine (stepEvent_fetched rnd { s with pending := es } hfault hp).trans ?_
    rw [e] at h
    obtain ⟨i, hdec, hw⟩ | ⟨e, hdec, hw⟩ := execWord_cases (s.mem.wordAt s.cfg s.pc.toNat) (s.beginStep rnd)
    · rw [execWord, hdec]
      exact exec_with_pending es (hw.symm.trans h)
    · rw [execWord, hdec]
      cases hw.symm.trans h
      rfl

/-- No event reads or writes the pending events. -/
theorem performEvent_with_pending {e : Event} {s t : State} (es : List Event) (h : performEvent e s = .next t) :
    performEvent e { s with pending := es } = .next { t with pending := es } := by
  cases e with
  | step rnd => exact stepEvent_with_pending es h
  | load image =>
    cases h
    cases hfits : imageFits image
    · rw [State.loadImage_oversize s hfits]
      exact congrArg Host.Outcome.next (State.loadImage_oversize _ hfits)
    · rw [State.loadImage_fits s hfits]
      exact congrArg Host.Outcome.next (State.loadImage_fits _ hfits)
  | reset | tick | setKey | readVideo =>
    cases h
    rfl

/-- A run of one more step goes on from the state the first one answers. -/
theorem run_succ_of_step {M : Host.Core} {s t : M.State} (h : M.step s = .next t) (k : Nat) : M.run (k + 1) s = M.run k t := by
  rw [Host.Core.run, h]

/-- Settles O7: by induction on the events; each step performs the first one and leaves the others pending. -/
theorem stepsPerformThePendingEvents : Obligations.StepsPerformThePendingEvents := by
  intro es
  induction es with
  | nil => exact fun _ => rfl
  | cons e es ih =>
    intro s
    obtain ⟨t, ht, -⟩ := performEvent_answers e { s with pending := [] }
    have hrest := performEvent_with_pending es ht
    have hnone := performEvent_with_pending [] ht
    have hkept : t = { t with pending := [] } := Host.Outcome.next.inj (ht.symm.trans hnone)
    have hstep : step { s with pending := e :: es } = .next { t with pending := es } := (step_of_pending rfl).trans hrest
    rw [performAll, ht]
    exact (run_succ_of_step (M := core) hstep es.length).trans ((ih t).trans (congrArg (performAll es) hkept.symm))

/-! ### Skips and jumps -/

/-- Settles O20: each is a skip, and its test is the comparison. -/
theorem otherRegisterCompareSkips : Obligations.OtherRegisterCompareSkips := fun _ _ _ s =>
  ⟨congrArg Host.Outcome.next (s.skipIf_eq_of_iff bne_iff_ne), congrArg Host.Outcome.next (s.skipIf_eq_of_iff beq_iff_eq),
    congrArg Host.Outcome.next (s.skipIf_eq_of_iff bne_iff_ne)⟩

/-- A 12-bit literal zero-extended is its number. -/
theorem zext12_eq_ofNat (nnn : BitVec 12) : zext12 nnn = BitVec.ofNat 16 nnn.toNat :=
  (BitVec.ofNat_toNat 16 nnn).symm

/-- The unmasked target of JP V0 is the sum of the numbers. -/
theorem State.offsetTarget_eq_ofNat (s : State) (nnn : BitVec 12) :
    s.offsetTarget nnn = BitVec.ofNat 16 (nnn.toNat + (s.reg V0).toNat) := by
  rw [BitVec.ofNat_add, BitVec.ofNat_toNat, BitVec.ofNat_toNat]
  rfl

/-- Settles O22: both jumps set `PC` alone. -/
theorem jumpsSetTheProgramCounter : Obligations.JumpsSetTheProgramCounter := fun nnn s =>
  ⟨congrArg (fun p => Host.Outcome.next (s.setPc p)) (zext12_eq_ofNat nnn),
    congrArg (fun p => Host.Outcome.next (s.setPc p)) (s.offsetTarget_eq_ofNat nnn)⟩

/-! ### Calls and returns -/

/-- Settles O23: the two outcomes of the push; a write to one entry keeps the others. -/
theorem callPushesOrOverflows : Obligations.CallPushesOrOverflows := by
  refine fun nnn s => ⟨fun h => ⟨_, exec_call_pushes nnn s h, ?_, fun k hk => ?_, rfl, ?_⟩,
    fun h => ⟨_, exec_call_overflows nnn s h, rfl⟩⟩
  · exact Vector.getElem_set_self _
  · exact Vector.getElem_set_ne h _ (Ne.symm hk)
  · rw [← zext12_eq_ofNat]

/-- Settles O24: the two outcomes of the pop. -/
theorem returnPopsOrUnderflows : Obligations.ReturnPopsOrUnderflows := fun s =>
  ⟨fun h => ⟨_, exec_ret_pops s (Nat.ne_of_gt h), rfl, rfl⟩, fun h => ⟨_, exec_ret_underflows s h, rfl⟩⟩

/-- Executing one list after another. -/
theorem execAll_append {is js : List Instr} {s t : State} (h : execAll is s = .next t) :
    execAll (is ++ js) s = execAll js t := by
  induction is generalizing s with
  | nil =>
    cases h
    rfl
  | cons i is ih =>
    rw [execAll] at h
    rw [List.cons_append, execAll]
    cases hi : exec i s with
    | next u =>
      rw [hi] at h
      exact ih h
    | fault r => rw [hi] at h; cases h
    | refused r => rw [hi] at h; cases h

/-- The calls to some targets, then as many returns. -/
def callsThenReturns (targets : List (BitVec 12)) : List Instr :=
  targets.map Instr.call ++ List.replicate targets.length Instr.ret

theorem callsThenReturns_cons (nnn : BitVec 12) (targets : List (BitVec 12)) :
    callsThenReturns (nnn :: targets) = Instr.call nnn :: (callsThenReturns targets ++ [Instr.ret]) := by
  simp [callsThenReturns, List.replicate_succ']

/-- `t` is `s` but for the stack, `SP` and `PC`: what calls and returns leave alone. -/
def State.SameButStack (s t : State) : Prop := t = { s with stack := t.stack, sp := t.sp, pc := t.pc }

theorem State.SameButStack.trans {s t u : State} (hst : s.SameButStack t) (htu : t.SameButStack u) : s.SameButStack u := by
  unfold State.SameButStack at htu
  rw [hst] at htu
  exact htu

/-- Calls that the stack has room for and as many returns restore everything but `PC` and the entries from `SP` up; at least
one call comes back to the instruction after it. -/
theorem execAll_callsThenReturns (targets : List (BitVec 12)) (s : State) (hroom : s.sp.val + targets.length ≤ 16) :
    ∃ t, execAll (callsThenReturns targets) s = .next t ∧ s.SameButStack t ∧ t.sp = s.sp ∧
      (targets ≠ [] → t.pc = s.pc + 2) ∧ ∀ k : Fin 16, k.val < s.sp.val → t.stack[k] = s.stack[k] := by
  induction targets generalizing s with
  | nil => exact ⟨s, rfl, rfl, rfl, fun h => absurd rfl h, fun _ _ => rfl⟩
  | cons nnn targets ih =>
    rw [List.length_cons] at hroom
    have hlt : s.sp.val < 16 := by omega
    obtain ⟨u, hcall, htop, hbelow, husp, hu⟩ := (callPushesOrOverflows nnn s).1 hlt
    obtain ⟨v, hinner, huv, hvsp, -, hvbelow⟩ := ih u (by omega)
    have hsp : v.sp.val = s.sp.val + 1 := by rw [hvsp, husp]
    obtain ⟨w, hret, hwsp, hw⟩ := (returnPopsOrUnderflows v).1 (by omega)
    have hwstack : w.stack = v.stack := by rw [hw]
    refine ⟨w, ?run, ?frame, Fin.ext (by omega), fun _ => ?pc, fun k hk => ?below⟩
    case run =>
      rw [callsThenReturns_cons, execAll, hcall]
      refine (execAll_append hinner).trans ?_
      rw [execAll, hret]
      rfl
    case frame =>
      have hsu : s.SameButStack u := by rw [State.SameButStack, hu]
      have hvw : v.SameButStack w := by rw [State.SameButStack, hw]
      exact hsu.trans (huv.trans hvw)
    case pc =>
      have hkept := hvbelow ⟨s.sp.val, hlt⟩ (by show s.sp.val < u.sp.val; omega)
      rw [hw, ← htop]
      simpa [hsp] using hkept
    case below =>
      rw [hwstack, hvbelow k (by omega), hbelow k (by omega)]

/-- Settles O25: the induction above, for at least one call. -/
theorem nestedCallsThenReturnsComeBack : Obligations.NestedCallsThenReturnsComeBack := by
  intro targets s hne hroom
  obtain ⟨t, ht, hframe, hsp, hpc, hstack⟩ := execAll_callsThenReturns targets s hroom
  rw [State.SameButStack, hsp, hpc hne] at hframe
  exact ⟨t, ht, hframe, hstack⟩

/-! ### The park idiom (R216) -/

/-- A STEP of a parked program performs its jump to itself. -/
theorem performEvent_step_parked {s : State} (rnd : Option Byte) (hs : s.Parked) :
    performEvent (.step rnd) s = .next (s.beginStep rnd) := by
  obtain ⟨hfetch, -, nnn, hdec, hself⟩ := hs
  rw [performEvent, stepEvent_decoded rnd hfetch hdec]
  exact congrArg (fun p => Host.Outcome.next ((s.beginStep rnd).setPc p)) hself

/-- Settles O59: every STEP leaves the program parked and the core as it was. -/
theorem parkedProgramStays : Obligations.ParkedProgramStays := by
  intro s rnds hs
  refine performAll_keeps (P := fun t => s.SameCore t ∧ t.Parked) (fun e he t ⟨hst, ht⟩ => ?_) ⟨rfl, hs⟩
  obtain ⟨rnd, -, rfl⟩ := List.mem_map.1 he
  refine ⟨_, performEvent_step_parked rnd ht, ?_, ht⟩
  rw [State.SameCore] at hst ⊢
  rw [hst]
  rfl

end Sys2Proof.Machine
end

section
/-! PROOFS. Register and arithmetic-logic instructions (42_alu.md) and the instructions that write `I` (43_index_memory.md). -/

namespace Sys2Proof.Machine

/-! ### One destination, no flag -/

/-- A register write that advances meets `WritesReg`. -/
theorem State.writesReg_setReg (s : State) (x : Reg) (b : Byte) : WritesReg s (s.setReg x b).advance x b :=
  ⟨by rw [State.reg_advance, State.reg_setReg, if_pos rfl],
    fun k hk => by rw [State.reg_advance, State.reg_setReg, if_neg hk.symm], rfl⟩

/-- Settles O26: each is a register write. -/
theorem loadsAndLogicWriteTheirDestination : Obligations.LoadsAndLogicWriteTheirDestination := fun x _ _ s =>
  ⟨⟨_, rfl, s.writesReg_setReg x _⟩, ⟨_, rfl, s.writesReg_setReg x _⟩, ⟨_, rfl, s.writesReg_setReg x _⟩,
    ⟨_, rfl, s.writesReg_setReg x _⟩, ⟨_, rfl, s.writesReg_setReg x _⟩⟩

/-- Settles O27: a register write of the sum modulo 256, or a result-and-flag write of it and its carry. -/
theorem addImmediateWrapsWithoutFlag : Obligations.AddImmediateWrapsWithoutFlag := by
  refine fun x nn s => ⟨fun h => ⟨_, exec_addByte_plain x nn s h, ?_⟩, fun h => ⟨_, exec_addByte_flagging x nn s h, ?_⟩⟩
  · have hsum : BitVec.ofNat 8 (((s.reg x).toNat + nn.toNat) % 256) = s.reg x + nn :=
      BitVec.eq_of_toNat_eq (by simp)
    rw [hsum]
    exact s.writesReg_setReg x _
  · exact s.writesRegAndFlag_of_iff (BitVec.toNat_add _ _) (carryOut_iff _ _)

/-- Settles O32: a register write of the masked byte, or the fault. -/
theorem randomIsTheMaskedEntropyByte : Obligations.RandomIsTheMaskedEntropyByte := fun x nn s =>
  ⟨fun _ hb => ⟨_, exec_rnd_drawn x nn s hb, s.writesReg_setReg x _⟩, fun h => ⟨_, exec_rnd_unavailable x nn s h, rfl⟩⟩

/-! ### A result and a flag -/

/-- Settles O30: a result-and-flag write of the exchanged difference and the absence of its borrow. -/
theorem subnReportsNoBorrow : Obligations.SubnReportsNoBorrow := fun _ _ s =>
  ⟨_, rfl, s.writesRegAndFlag_of_iff (toNat_sub_eq_emod _ _) (noBorrow_iff _ _)⟩

theorem toNat_shiftRight_one (b : Byte) : (b >>> 1).toNat = b.toNat / 2 := by
  rw [BitVec.toNat_ushiftRight, Nat.shiftRight_one]

theorem toNat_shiftLeft_one (b : Byte) : (b <<< 1).toNat = 2 * b.toNat % 256 := by
  rw [BitVec.toNat_shiftLeft, Nat.shiftLeft_eq, Nat.mul_comm]

theorem shiftedOutLow_iff (b : Byte) : shiftedOutLow b = true ↔ b.toNat % 2 = 1 := by
  simp [shiftedOutLow, BitVec.getLsbD, Nat.testBit_zero]

theorem shiftedOutHigh_iff (b : Byte) : shiftedOutHigh b = true ↔ 128 ≤ b.toNat := by
  have := b.isLt
  simp only [shiftedOutHigh, BitVec.getLsbD, Nat.testBit_eq_decide_div_mod_eq, decide_eq_true_eq]
  omega

/-- Settles O31: the shifts are result-and-flag writes of the halved and the doubled byte and the bit they lose. -/
theorem shiftsReportTheBitShiftedOut : Obligations.ShiftsReportTheBitShiftedOut := fun _ s =>
  ⟨⟨_, rfl, s.writesRegAndFlag_of_iff (toNat_shiftRight_one _) (shiftedOutLow_iff _)⟩,
    ⟨_, rfl, s.writesRegAndFlag_of_iff (toNat_shiftLeft_one _) (shiftedOutHigh_iff _)⟩⟩

/-! ### The index register -/

/-- The unreduced sum of `I` and a byte, as a word. -/
theorem add_zext8_eq_ofNat (i : Word) (b : Byte) : i + zext8 b = BitVec.ofNat 16 ((i.toNat + b.toNat) % 65536) :=
  BitVec.eq_of_toNat_eq (by simp [zext8])

theorem glyphAddress_eq_ofNat (c : Config) (b : Byte) :
    glyphAddress c b = BitVec.ofNat 16 (c.fontBase + 5 * (b.toNat % 16)) := by
  rw [glyphAddress, toNat_lowNibble]

/-- Settles O33: each writes `I` and advances. -/
theorem indexRegisterWrites : Obligations.IndexRegisterWrites := by
  intro nnn x s
  rw [← zext12_eq_ofNat, ← add_zext8_eq_ofNat, ← glyphAddress_eq_ofNat]
  exact ⟨rfl, rfl, rfl⟩

end Sys2Proof.Machine
end

section
/-! PROOFS. Memory (20_memory.md) and the transfers between it and the registers (43_index_memory.md). -/

namespace Sys2Proof.Machine

/-! ### Canonical memories -/

/-- An address above the address space reads as its reset contents, since no canonical memory lists it. -/
theorem Memory.read_of_memSize_le {cfg : Config} {m : Memory} {lo a : Nat} (h : Memory.wfAbove cfg lo m) (ha : memSize ≤ a) :
    m.read cfg a = Memory.unlisted cfg a := by
  induction m generalizing lo with
  | nil => rfl
  | cons c m ih =>
    obtain ⟨k, b⟩ := c
    simp only [Memory.wfAbove, Bool.and_eq_true, decide_eq_true_eq] at h
    obtain ⟨⟨⟨-, hk⟩, -⟩, hm⟩ := h
    rw [Memory.read_listed, if_neg (by omega)]
    exact ih hm

/-- Settles O60: above the address space both read as the reset contents, so they read alike everywhere. -/
theorem canonicalMemoriesThatReadAlikeAreEqual : Obligations.CanonicalMemoriesThatReadAlikeAreEqual := by
  refine fun c m m' h h' hr => Memory.ext_above h h' fun a _ => ?_
  rcases Nat.lt_or_ge a memSize with ha | ha
  · exact hr a ha
  · rw [Memory.read_of_memSize_le h ha, Memory.read_of_memSize_le h' ha]

/-! ### Stores at `I` -/

section
variable {cfg : Config} {m : Memory} {a : Nat} {bs : List Byte} (h : m.wf cfg = true) (ha : a + bs.length ≤ memSize)
include h ha

/-- The `k`-th byte of a store. -/
theorem Memory.read_writeBytes_at {k : Nat} (hk : k < bs.length) :
    (m.writeBytes cfg a bs).read cfg (a + k) = bs.getD k 0 := by
  rw [Memory.read_writeBytes h a bs ha, if_pos (by omega), Nat.add_sub_cancel_left]

/-- A byte that a store does not reach. -/
theorem Memory.read_writeBytes_outside {k : Nat} (hk : k < a ∨ a + bs.length ≤ k) :
    (m.writeBytes cfg a bs).read cfg k = m.read cfg k := by
  rw [Memory.read_writeBytes h a bs ha, if_neg (by omega)]

end

/-- The three bytes of LD B hold the decimal digits (R123): each is below 256. -/
theorem toNat_bcdDigits (b : Byte) : ((bcdDigits b).getD 0 0).toNat = b.toNat / 100 ∧
    ((bcdDigits b).getD 1 0).toNat = b.toNat / 10 % 10 ∧ ((bcdDigits b).getD 2 0).toNat = b.toNat % 10 := by
  have := b.isLt
  simp only [bcdDigits, List.getD_cons_zero, List.getD_cons_succ, BitVec.toNat_ofNat]
  omega

/-- Settles O34: the three bytes stored are the digits. -/
theorem bcdStoreWritesThreeDigits : Obligations.BcdStoreWritesThreeDigits := by
  intro x s hwf hi
  have hlen : (bcdDigits (s.reg x)).length = 3 := rfl
  have hrange : s.i.toNat + (bcdDigits (s.reg x)).length ≤ memSize := by
    simp only [memSize]
    omega
  have hread {k : Nat} (hk : k < 3) := congrArg BitVec.toNat (Memory.read_writeBytes_at hwf hrange (hlen ▸ hk))
  obtain ⟨h0, h1, h2⟩ := toNat_bcdDigits (s.reg x)
  exact ⟨_, exec_ldB_inRange x s hrange, rfl, (hread (by decide)).trans h0, (hread (by decide)).trans h1,
    (hread (by decide)).trans h2, fun a ha => Memory.read_writeBytes_outside hwf hrange ha⟩

/-- The bytes of a block dump are the registers. -/
theorem State.getD_regsUpTo (s : State) {x k : Reg} (h : k.toNat ≤ x.toNat) : (s.regsUpTo x).getD k.toNat 0 = s.reg k := by
  have hk := k.isLt
  simp [State.regsUpTo, State.reg, regIndex, List.getD_eq_getElem?_getD, Nat.lt_succ_of_le h, hk]

/-- Settles O35: the bytes stored are the registers up to `X`. -/
theorem blockDumpStoresRegisters : Obligations.BlockDumpStoresRegisters := by
  intro x s hwf hi
  have hlen := s.length_regsUpTo x
  have hrange : s.i.toNat + (s.regsUpTo x).length ≤ memSize := by
    simp only [memSize]
    omega
  refine ⟨_, exec_storeRegs_inRange x s (hlen ▸ hrange), rfl, fun k hk => ?_, fun a ha => ?_⟩
  · exact (Memory.read_writeBytes_at hwf hrange (by omega)).trans (s.getD_regsUpTo hk)
  · exact Memory.read_writeBytes_outside hwf hrange (by omega)

/-! ### Loads from `I` -/

/-- The registers up to `x` take the bytes of a block load. -/
theorem reg_loadBlock_upTo (s : State) {x k : Reg} (bs : List Byte) (h : k.toNat ≤ x.toNat) :
    State.reg { s with v := loadBlock s.v x bs } k = bs.getD k.toNat 0 := by
  simp [State.reg, loadBlock, regIndex, h]

/-- Settles O36: the registers up to `X` take the bytes read, the others stay. -/
theorem blockLoadLoadsRegisters : Obligations.BlockLoadLoadsRegisters := by
  intro x s hi
  refine ⟨_, exec_loadRegs_inRange x s (by simp only [memSize]; omega), rfl, fun k hk => ?_, fun k hk => ?_⟩
  · refine (reg_loadBlock_upTo s _ hk).trans ?_
    simp [List.getD_eq_getElem?_getD, Nat.lt_succ_of_le hk]
  · exact reg_loadBlock_above s _ hk

/-- Settles O37: the load reads the bytes that the dump stored. -/
theorem dumpThenLoadRestoresRegisters : Obligations.DumpThenLoadRestoresRegisters := by
  intro x s v hwf hi
  obtain ⟨t, ht, hframe, hstored, -⟩ := blockDumpStoresRegisters x s hwf hi
  have hti : t.i = s.i := by rw [hframe]
  obtain ⟨u, hu, -, hloaded, -⟩ := blockLoadLoadsRegisters x { t with v := v } (by rwa [← hti] at hi)
  refine ⟨t, u, ht, hu, fun k hk => ?_⟩
  rw [hloaded k hk, ← hstored k hk, hti]

/-- Settles O39: the next fetch is in range, and its two bytes are among those that the dump stored. -/
theorem storeIsSeenByTheNextFetch : Obligations.StoreIsSeenByTheNextFetch := by
  intro x j k s hwf hi hjk hk hpc
  obtain ⟨t, ht, hframe, hstored, -⟩ := blockDumpStoresRegisters x s hwf hi
  have htpc : t.pc.toNat = s.i.toNat + j.toNat := by
    rw [hframe]
    exact hpc
  refine ⟨t, ht, ?_⟩
  rw [fetch, guardRange_ok _ (by simp only [memSize]; omega), Memory.wordAt, htpc, hstored j (by omega), Nat.add_assoc, ← hjk,
    hstored k hk, wordOfBytes]

/-! ### Accesses out of range (R47) -/

/-- Settles O38: the range check of each access fails. -/
theorem outOfRangeAccessFaults : Obligations.OutOfRangeAccessFaults := fun x y n s =>
  ⟨fun h => ⟨_, exec_ldB_outOfRange x s (by simp only [memSize]; omega), rfl⟩,
    fun h => ⟨⟨_, exec_storeRegs_outOfRange x s (by simp only [memSize]; omega), rfl⟩,
      ⟨_, exec_loadRegs_outOfRange x s (by simp only [memSize]; omega), rfl⟩⟩,
    fun h => ⟨_, exec_drw_outOfRange x y n s h, rfl⟩⟩

end Sys2Proof.Machine
end

section
/-! PROOFS. The events other than STEP (50_interfaces.md, 60_exceptions.md, 70_reset_and_hazards.md): the timers, the keys, the
video output, RESET and LOAD, and what a held fault leaves of a run. -/

namespace Sys2Proof.Machine

/-! ### Faults (R85, R171, R178) -/

theorem State.SameRun.faulted {s t : State} (h : s.SameRun t) (hs : s.Faulted) : t.Faulted := by
  rwa [State.Faulted, show t.fault = s.fault from (congrArg State.fault h :)]

/-- Settles O9: a STEP is inert in every state that agrees with the faulted one on the state of the run. -/
theorem faultedCoreIsInert : Obligations.FaultedCoreIsInert := fun s hs =>
  ⟨fun rnd => stepEvent_faulted rnd s hs, fun _ hes =>
    performAll_sameRun hes fun t hst rnd => ⟨_, stepEvent_faulted rnd t (hst.faulted hs), rfl⟩⟩

/-- The code of a raised fault is that fault's. -/
theorem State.faultCode_raise (s : State) (e : Raise) : (s.raise e).faultCode = e.fault.code := rfl

/-- A STEP that ends with a fault it did not begin with has raised it: in its fetch or in the instruction it ran. -/
theorem raises_of_stepEvent {s t : State} {rnd : Option Byte} (hs : s.fault = none) (h : stepEvent rnd s = .next t)
    (ht : t.fault ≠ none) : ∃ f info, Raises { s with rnd := rnd } t f info := by
  obtain ⟨hf, -⟩ | ⟨-, -, e⟩ | ⟨-, -, e⟩ := stepEvent_cases rnd s
  · exact absurd hs hf
  · cases e.symm.trans h
    exact ⟨_, _, raises_raise _ _⟩
  · rw [e] at h
    obtain ⟨i, -, hw⟩ | ⟨-, -, hw⟩ := execWord_cases (s.mem.wordAt s.cfg s.pc.toNat) (s.beginStep rnd)
    · exact faultsArePrecise i (s.beginStep rnd) t (hw.symm.trans h) (fun hsame => ht (hsame.trans hs))
    · cases hw.symm.trans h
      exact absurd hs ht

/-- Settles O56: a fault's entry by definition, and the two places where a STEP can raise one. -/
theorem faultEntryHoldsTheCode : Obligations.FaultEntryHoldsTheCode :=
  ⟨fun s e => ⟨s.faultCode_raise e, raises_raise s e⟩, rfl, rfl, rfl, rfl, fun _ _ _ hs h ht => raises_of_stepEvent hs h ht⟩

/-! ### Timers (R131 to R132, R183, R184) -/

/-- Settles O40: a register write, and two writes of one timer. -/
theorem timerInstructionsCopy : Obligations.TimerInstructionsCopy := fun x s =>
  ⟨⟨_, rfl, s.writesReg_setReg x _⟩, rfl, rfl⟩

/-- `ST` is 1 exactly when this TICK empties it. -/
theorem beq_one_eq_decide (b : Byte) : (b == 1) = decide (b.toNat = 1) := by
  rw [Bool.eq_iff_iff, beq_iff_eq, decide_eq_true_eq, BitVec.toNat_eq]
  rfl

/-- Settles O47: a timer that held 1 is the one that becomes 0. -/
theorem tickCountsDown : Obligations.TickCountsDown := by
  refine fun s => ⟨s.tick, rfl, toNat_countDown _, toNat_countDown _, ?_⟩
  have hbeep : (s.st == 1) = decide (s.st.toNat = 1 ∧ s.tick.st.toNat = 0) := by
    have hst : s.tick.st.toNat = s.st.toNat - 1 := toNat_countDown _
    rw [beq_one_eq_decide, decide_eq_decide]
    omega
  rw [← hbeep]
  rfl

/-- Settles O48: by induction on the number of TICKs; the first one takes 1 from both timers and from the count. -/
theorem theTickThatEmptiesTheTimerBeeps : Obligations.TheTickThatEmptiesTheTimerBeeps := by
  intro s n
  induction n generalizing s with
  | zero => exact ⟨s.tick, rfl, toNat_countDown _, toNat_countDown _, congrArg _ (beq_one_eq_decide s.st)⟩
  | succ n ih =>
    obtain ⟨t, ht, hdt, hst, hbeep⟩ := ih s.tick
    have hdt1 : s.tick.dt.toNat = s.dt.toNat - 1 := toNat_countDown _
    have hst1 : s.tick.st.toNat = s.st.toNat - 1 := toNat_countDown _
    refine ⟨t, ht, by omega, by omega, hbeep.trans ?_⟩
    congr 1
    rw [decide_eq_decide]
    omega

/-! ### Keys (R135, R185, R186) -/

/-- A report latches its key exactly under the four conditions of R186. -/
theorem State.latches_iff (s : State) (k : BitVec 4) (pressed : Bool) : s.latches k pressed = true ↔
    pressed = true ∧ s.keys.getLsbD k.toNat = false ∧ s.wait = true ∧ s.klValid = false := by
  simp [State.latches, and_assoc]

theorem State.setKey_latch_of_latches {s : State} {k : BitVec 4} {pressed : Bool} (h : s.latches k pressed = true) :
    (s.setKey k pressed).klValid = true ∧ (s.setKey k pressed).klKey = k := by
  simp [State.setKey, h]

theorem State.setKey_latch_of_not_latches {s : State} {k : BitVec 4} {pressed : Bool} (h : ¬ s.latches k pressed = true) :
    (s.setKey k pressed).klValid = s.klValid ∧ (s.setKey k pressed).klKey = s.klKey := by
  simp [State.setKey, h]

/-- The bits of `KEYS` after a report. -/
theorem State.getLsbD_keys_setKey (s : State) (k j : BitVec 4) (pressed : Bool) :
    (s.setKey k pressed).keys.getLsbD j.toNat = if j = k then pressed else s.keys.getLsbD j.toNat :=
  getLsbD_setKeyBit s.keys k j pressed

/-- Settles O49: one bit is written, and the latch goes by whether the report is one that it takes. -/
theorem setKeyWritesOneBit : Obligations.SetKeyWritesOneBit := by
  intro k pressed s
  rw [← s.latches_iff k pressed]
  exact ⟨s.setKey k pressed, rfl, (s.getLsbD_keys_setKey k k pressed).trans (if_pos rfl),
    fun j hj => (s.getLsbD_keys_setKey k j pressed).trans (if_neg hj), State.setKey_latch_of_latches,
    State.setKey_latch_of_not_latches, rfl⟩

/-- Settles O41: the two outcomes of the wait; the index fits a byte. -/
theorem keyWaitSuspendsOrCompletes : Obligations.KeyWaitSuspendsOrCompletes := by
  refine fun x s => ⟨fun h => ⟨_, exec_ldVxK_latched x s h, ?_, fun k hk => ?_, rfl⟩, exec_ldVxK_waiting x s⟩
  · have hreg := s.reg_setReg x x (zext4 s.klKey)
    rw [if_pos rfl] at hreg
    exact (congrArg BitVec.toNat hreg).trans (BitVec.toNat_setWidth_of_le (by decide))
  · exact (s.reg_setReg x k _).trans (if_neg hk.symm)

/-- `t` is `s` but for the timers, the keys, `DIRTY` and the inputs and outputs of an event: what a run without a key-down may
change during a wait. -/
def State.SameWait (s t : State) : Prop :=
  t = { s with dt := t.dt, st := t.st, keys := t.keys, dirty := t.dirty, rnd := t.rnd, out := t.out }

theorem State.SameWait.trans {s t u : State} (hst : s.SameWait t) (htu : t.SameWait u) : s.SameWait u := by
  unfold State.SameWait at htu
  rw [hst] at htu
  exact htu

/-- A state that waits with an empty latch at an LD Vx, K that can be fetched. -/
structure State.Awaiting (s : State) : Prop where
  wait : s.wait = true
  latchEmpty : s.klValid = false
  canFetch : s.CanFetch
  atKeyWait : ∃ x, decode s.word = .ok (.ldVxK x)

theorem State.SameWait.awaiting {s t : State} (h : s.SameWait t) (hs : s.Awaiting) : t.Awaiting := by
  obtain ⟨hwait, hlatch, hfetch, hword⟩ := hs
  rw [h]
  exact ⟨hwait, hlatch, hfetch, hword⟩

/-- A STEP of a waiting core goes on waiting. -/
theorem performEvent_step_awaiting {s : State} (rnd : Option Byte) (hs : s.Awaiting) :
    performEvent (.step rnd) s = .next (s.beginStep rnd).signalAwait := by
  obtain ⟨hwait, hlatch, hfetch, x, hdec⟩ := hs
  have hcont : ({ (s.beginStep rnd).signalAwait with wait := true } : State) = (s.beginStep rnd).signalAwait := by
    rw [← hwait]
    rfl
  rw [performEvent, stepEvent_decoded rnd hfetch hdec, exec_ldVxK_waiting x _ (by simp [hlatch]), hcont]

/-- The release of a key latches nothing. -/
theorem State.setKey_release (s : State) (k : BitVec 4) :
    s.setKey k false = { s with keys := setKeyBit s.keys k false, out := {} } := by
  simp [State.setKey, State.latches]

/-- An event other than RESET, LOAD and a key-down leaves a waiting core waiting. -/
theorem performEvent_awaiting {s : State} {e : Event} (he : e.noPress = true) (hs : s.Awaiting) :
    ∃ t, performEvent e s = .next t ∧ s.SameWait t := by
  cases e with
  | reset => cases he
  | load image => cases he
  | step rnd => exact ⟨_, performEvent_step_awaiting rnd hs, rfl⟩
  | tick => exact ⟨s.tick, rfl, rfl⟩
  | setKey k pressed =>
    obtain rfl : pressed = false := by simpa [Event.noPress] using he
    exact ⟨_, congrArg Host.Outcome.next (s.setKey_release k), rfl⟩
  | readVideo => exact ⟨s.readVideo, rfl, rfl⟩

/-- Settles O42: every event of the run leaves the core waiting. -/
theorem waitLastsUntilAKeyDown : Obligations.WaitLastsUntilAKeyDown := by
  intro s es hinv hwait hlatch hes
  obtain ⟨hfetch, hword⟩ := hinv.waitAtKeyWait hwait
  have hs : s.Awaiting := ⟨hwait, hlatch, hfetch, hword⟩
  refine performAll_keeps (P := s.SameWait) (fun e he t hst => ?_) rfl
  obtain ⟨u, hu, htu⟩ := performEvent_awaiting (hes e he) (hst.awaiting hs)
  exact ⟨u, hu, hst.trans htu⟩

/-- Of two presses the first is latched, during a wait with the latch empty, and both keys are held. -/
theorem State.setKey_setKey_first {s : State} (k k' : BitVec 4) (hwait : s.wait = true) (hlatch : s.klValid = false)
    (hkey : s.keys.getLsbD k.toNat = false) :
    ((s.setKey k true).setKey k' true).klValid = true ∧ ((s.setKey k true).setKey k' true).klKey = k ∧
      ((s.setKey k true).setKey k' true).keys.getLsbD k.toNat = true ∧
      ((s.setKey k true).setKey k' true).keys.getLsbD k'.toNat = true := by
  obtain ⟨hvalid, hfirst⟩ := State.setKey_latch_of_latches ((s.latches_iff k true).2 ⟨rfl, hkey, hwait, hlatch⟩)
  obtain ⟨hvalid', hkept⟩ := State.setKey_latch_of_not_latches (s := s.setKey k true) (k := k') (pressed := true)
    (by simp [State.latches_iff, hvalid])
  exact ⟨hvalid'.trans hvalid, hkept.trans hfirst, by simp [State.getLsbD_keys_setKey], by simp [State.getLsbD_keys_setKey]⟩

/-- Settles O43: the STEP after the presses stores the key that the latch holds. -/
theorem firstKeyDownEndsTheWait : Obligations.FirstKeyDownEndsTheWait := by
  intro s x k k' rnd hwait hlatch hfetch hdec hkey
  obtain ⟨hvalid, hfirst, hheld, hheld'⟩ := State.setKey_setKey_first k k' hwait hlatch hkey
  have hrun : s.SameRun ((s.setKey k true).setKey k' true) := rfl
  have hperform : performAll [.setKey k true, .setKey k' true, .step rnd] s =
      performAll [.step rnd] ((s.setKey k true).setKey k' true) := rfl
  rw [hperform]
  generalize (s.setKey k true).setKey k' true = u at *
  have hstep := stepEvent_decoded rnd (hrun.canFetch hfetch) (hrun.word_eq ▸ hdec)
  have huwait : u.wait = true := (congrArg State.wait hrun :).trans hwait
  have hupc : u.pc = s.pc := (congrArg State.pc hrun :)
  obtain ⟨t, ht, htx, -, hframe⟩ := (keyWaitSuspendsOrCompletes x (u.beginStep rnd)).1 ⟨huwait, hvalid⟩
  refine ⟨t, by rw [performAll, performEvent, hstep, ht]; rfl, htx.trans (congrArg _ hfirst), ?_⟩
  rw [hframe, ← hupc]
  exact ⟨rfl, rfl, rfl, hheld, hheld'⟩

/-! ### READ_VIDEO and FAULT (R155, R190) -/

/-- Settles O50: the flag that the second event returns is the one that the first cleared. -/
theorem readVideoClearsTheFlag : Obligations.ReadVideoClearsTheFlag := fun _ => ⟨rfl, rfl⟩

/-- Settles O51: none of the three reads or writes FAULT. -/
theorem otherEventsIgnoreTheFault : Obligations.OtherEventsIgnoreTheFault := by
  rintro e s t f (rfl | ⟨k, p, rfl⟩ | rfl) h
  all_goals
    cases h
    rfl

/-! ### RESET and LOAD (R200 to R202) -/

/-- What an address reads as after reset: the font's byte or zero. -/
theorem Memory.unlisted_eq (c : Config) (a : Nat) : Memory.unlisted c a =
    if h : c.fontBase ≤ a ∧ a < c.fontBase + 80 then c.fontData[a - c.fontBase]'(by show _ < 80; omega) else 0 := by
  split
  · next h => exact Memory.unlisted_font h.1 (by simp only [fontBytes]; omega)
  · exact Memory.unlisted_zero (by simp only [fontBytes]; omega)

theorem resetOf_reg (c : Config) (k : Reg) : (State.resetOf c).reg k = 0 := by
  simp [State.reg]

/-- Settles O52: memory lists nothing, so it reads as the reset contents, and everything else is the literal of the reset
state. -/
theorem resetValues : Obligations.ResetValues := by
  refine ⟨fun c => ⟨_, rfl, rfl, Memory.unlisted_eq c, resetOf_reg c, rfl, rfl, fun k => ?_, rfl, rfl, rfl, rfl,
    Framebuffer.pixel_clear, rfl, rfl, rfl, rfl, rfl⟩, rfl, rfl, rfl, rfl, rfl, rfl⟩
  simp

/-- Settles O53: RESET keeps nothing but the inputs and outputs that are no state of the core. -/
theorem resetRestoresEverything : Obligations.ResetRestoresEverything := fun s => ⟨s.coreReset, rfl, rfl, rfl⟩

/-- Settles O54: the image is a store into reset memory. -/
theorem loadCopiesTheImage : Obligations.LoadCopiesTheImage := by
  intro image s hlen
  have hfits : imageFits image = true := decide_eq_true hlen
  have hwf := Memory.reset_wf (cfg := s.cfg)
  have hrange := imageFits_bound hfits
  refine ⟨_, congrArg Host.Outcome.next (s.loadImage_fits hfits), fun k hk => ?_, fun a ha => ?_, rfl, rfl⟩
  · exact (Memory.read_writeBytes_at hwf hrange hk).trans (List.getD_eq_getElem _ _ hk)
  · exact Memory.read_writeBytes_outside hwf hrange ha

/-- Settles O55: the length check fails. -/
theorem oversizeImageIsRejected : Obligations.OversizeImageIsRejected := fun _ s hlen =>
  congrArg Host.Outcome.next (s.loadImage_oversize (decide_eq_false (Nat.not_le.2 hlen)))

end Sys2Proof.Machine
end

section
/-! PROOFS. The display (45_display.md). A sprite is a list of plots, one for each of its bits, at places that differ from one
another as long as it has at most 32 rows; so a draw is the XOR of the sprite's mask, and a collision is a set pixel under it. -/

namespace Sys2Proof.Machine

/-! ### A sprite as a list of plots -/

/-- One bit of a sprite and the pixel it falls on. -/
structure Plot where
  bit : Bool
  place : Fin 64 × Fin 32

/-- A plot drawn. -/
def Blit.plot (t : Blit) (p : Plot) : Blit := t.bit p.bit p.place.1 p.place.2

/-- Whether a plot flips a pixel. -/
def Plot.covers (p : Plot) (x : Fin 64) (y : Fin 32) : Bool := p.bit && decide (p.place = (x, y))

theorem Blit.pixel_plot (t : Blit) (p : Plot) (x : Fin 64) (y : Fin 32) :
    (t.plot p).fb.pixel x y = (t.fb.pixel x y ^^ p.covers x y) := by
  unfold Blit.plot Blit.bit Plot.covers
  cases p.bit
  · simp
  · simp [Prod.ext_iff]

theorem Blit.collision_plot (t : Blit) (p : Plot) : (t.plot p).collision = true ↔
    t.collision = true ∨ (p.bit = true ∧ t.fb.pixel p.place.1 p.place.2 = true) := by
  unfold Blit.plot Blit.bit
  cases p.bit <;> simp

/-- No two plots fall on the same pixel. -/
def DistinctPlaces (ps : List Plot) : Prop := ps.Pairwise fun p q => p.place ≠ q.place

/-- Plots at distinct places flip exactly the pixels that one of them covers. -/
theorem pixel_foldl_plot {ps : List Plot} (h : DistinctPlaces ps) (t : Blit) (x : Fin 64) (y : Fin 32) :
    (ps.foldl Blit.plot t).fb.pixel x y = (t.fb.pixel x y ^^ ps.any fun p => p.covers x y) := by
  induction ps generalizing t with
  | nil => simp
  | cons p ps ih =>
    obtain ⟨hp, hps⟩ := List.pairwise_cons.1 h
    have honce : p.covers x y = true → (ps.any fun q => q.covers x y) = false := by
      intro hpc
      simp only [Plot.covers, Bool.and_eq_true, decide_eq_true_eq] at hpc
      rw [List.any_eq_false]
      intro q hq hqc
      simp only [Plot.covers, Bool.and_eq_true, decide_eq_true_eq] at hqc
      exact hp q hq (hpc.2.trans hqc.2.symm)
    rw [List.foldl_cons, ih hps, Blit.pixel_plot, List.any_cons, Bool.xor_assoc]
    cases hpc : p.covers x y
    · simp
    · simp [honce hpc]

/-- Plots at distinct places collide exactly where a set bit falls on a pixel that was set before them. -/
theorem collision_foldl_plot {ps : List Plot} (h : DistinctPlaces ps) (t : Blit) :
    (ps.foldl Blit.plot t).collision = true ↔
      t.collision = true ∨ ∃ p ∈ ps, p.bit = true ∧ t.fb.pixel p.place.1 p.place.2 = true := by
  induction ps generalizing t with
  | nil => simp
  | cons p ps ih =>
    obtain ⟨hp, hps⟩ := List.pairwise_cons.1 h
    have hkept : ∀ q ∈ ps, (t.plot p).fb.pixel q.place.1 q.place.2 = t.fb.pixel q.place.1 q.place.2 := by
      intro q hq
      simp [Blit.pixel_plot, Plot.covers, hp q hq]
    have hrest : (∃ q ∈ ps, q.bit = true ∧ (t.plot p).fb.pixel q.place.1 q.place.2 = true) ↔
        ∃ q ∈ ps, q.bit = true ∧ t.fb.pixel q.place.1 q.place.2 = true :=
      exists_congr fun q => and_congr_right fun hq => by rw [hkept q hq]
    rw [List.foldl_cons, ih hps, Blit.collision_plot, hrest, List.exists_mem_cons_iff, or_assoc]

/-- The plots of one row of a sprite, the leftmost first (R143). -/
def rowPlots (b : Byte) (x0 : Nat) (py : Fin 32) : List Plot :=
  (List.range 8).map fun c => ⟨b.getLsbD (7 - c), wrapX (x0 + c), py⟩

/-- The plots of a sprite, row after row from the top (R143). -/
def spritePlots : List Byte → Nat → Nat → List Plot
  | [], _, _ => []
  | b :: bs, x0, y0 => rowPlots b x0 (wrapY y0) ++ spritePlots bs x0 (y0 + 1)

/-- Drawing the rows of a sprite is drawing its plots. -/
theorem Blit.rows_eq_foldl_plot (bs : List Byte) (t : Blit) (x0 y0 : Nat) :
    t.rows bs x0 y0 = (spritePlots bs x0 y0).foldl Blit.plot t := by
  induction bs generalizing t y0 with
  | nil => rfl
  | cons b bs ih =>
    rw [Blit.rows, ih, spritePlots, List.foldl_append, rowPlots, List.foldl_map]
    rfl

theorem mem_rowPlots {b : Byte} {x0 : Nat} {py : Fin 32} {p : Plot} :
    p ∈ rowPlots b x0 py ↔ ∃ c < 8, p = ⟨b.getLsbD (7 - c), wrapX (x0 + c), py⟩ := by
  simp only [rowPlots, List.mem_map, List.mem_range, eq_comm]

/-- The plots of a sprite are its bits, each at its row and column with wraparound. -/
theorem mem_spritePlots {bs : List Byte} {x0 y0 : Nat} {p : Plot} : p ∈ spritePlots bs x0 y0 ↔
    ∃ r < bs.length, ∃ c < 8, p = ⟨(bs.getD r 0).getLsbD (7 - c), wrapX (x0 + c), wrapY (y0 + r)⟩ := by
  induction bs generalizing y0 with
  | nil => simp [spritePlots]
  | cons b bs ih =>
    rw [spritePlots, List.mem_append, mem_rowPlots, ih, List.length_cons, Nat.exists_lt_succ_left (n := bs.length)]
    simp only [List.getD_cons_zero, List.getD_cons_succ, Nat.add_zero, Nat.add_assoc, Nat.add_comm 1]

theorem wrapX_eq_iff {n : Nat} {x : Fin 64} : wrapX n = x ↔ n % 64 = x.val := Fin.ext_iff

theorem wrapY_eq_iff {n : Nat} {y : Fin 32} : wrapY n = y ↔ n % 32 = y.val := Fin.ext_iff

/-- The mask of a sprite is what its plots cover. -/
theorem spriteCovers_eq_any (bs : List Byte) (x0 y0 : Nat) (x : Fin 64) (y : Fin 32) :
    spriteCovers bs x0 y0 x y = (spritePlots bs x0 y0).any fun p => p.covers x y := by
  rw [Bool.eq_iff_iff, List.any_eq_true]
  simp only [mem_spritePlots, spriteCovers, List.any_eq_true, List.mem_range, Bool.and_eq_true, beq_iff_eq]
  constructor
  · rintro ⟨r, hr, c, hc, ⟨hbit, hx⟩, hy⟩
    refine ⟨_, ⟨r, hr, c, hc, rfl⟩, ?_⟩
    simp only [Plot.covers, hbit, Bool.true_and, decide_eq_true_eq, Prod.mk.injEq, wrapX_eq_iff, wrapY_eq_iff]
    exact ⟨hx, hy⟩
  · rintro ⟨_, ⟨r, hr, c, hc, rfl⟩, hp⟩
    simp only [Plot.covers, Bool.and_eq_true, decide_eq_true_eq, Prod.mk.injEq, wrapX_eq_iff, wrapY_eq_iff] at hp
    exact ⟨r, hr, c, hc, ⟨hp.1, hp.2.1⟩, hp.2.2⟩

/-- The columns of a row differ, as 8 is no more than 64. -/
theorem distinctPlaces_rowPlots (b : Byte) (x0 : Nat) (py : Fin 32) : DistinctPlaces (rowPlots b x0 py) := by
  refine List.pairwise_map.2 (List.pairwise_lt_range.imp_of_mem fun {c d} hc hd hlt h => ?_)
  have hx : (x0 + c) % 64 = (x0 + d) % 64 := congrArg (fun p : Fin 64 × Fin 32 => p.1.val) h
  simp only [List.mem_range] at hc hd
  omega

/-- The places of a sprite differ as long as its rows do not wrap onto each other. -/
theorem distinctPlaces_spritePlots {bs : List Byte} (h : bs.length ≤ 32) (x0 y0 : Nat) :
    DistinctPlaces (spritePlots bs x0 y0) := by
  induction bs generalizing y0 with
  | nil => exact List.Pairwise.nil
  | cons b bs ih =>
    rw [List.length_cons] at h
    refine List.pairwise_append.2 ⟨distinctPlaces_rowPlots b x0 _, ih (by omega) (y0 + 1), fun p hp q hq hpq => ?_⟩
    obtain ⟨c, -, rfl⟩ := mem_rowPlots.1 hp
    obtain ⟨r, hr, d, -, rfl⟩ := mem_spritePlots.1 hq
    have hy : y0 % 32 = (y0 + 1 + r) % 32 := congrArg (fun p : Fin 64 × Fin 32 => p.2.val) hpq
    omega

/-! ### A draw (R142, R145) -/

section
variable (fb : Framebuffer) {bs : List Byte} (h : bs.length ≤ 32) (vx vy : Byte)
include h

/-- A draw is the XOR of the sprite's mask. -/
theorem pixel_blit (x : Fin 64) (y : Fin 32) :
    (blit fb bs vx vy).fb.pixel x y = (fb.pixel x y ^^ spriteCovers bs (vx.toNat % 64) (vy.toNat % 32) x y) := by
  rw [blit, Blit.rows_eq_foldl_plot, pixel_foldl_plot (distinctPlaces_spritePlots h _ _), spriteCovers_eq_any]

/-- A draw collides exactly when a set pixel lies under the sprite's mask. -/
theorem collision_blit : (blit fb bs vx vy).collision = true ↔
    ∃ x y, fb.pixel x y = true ∧ spriteCovers bs (vx.toNat % 64) (vy.toNat % 32) x y = true := by
  rw [blit, Blit.rows_eq_foldl_plot, collision_foldl_plot (distinctPlaces_spritePlots h _ _)]
  simp only [spriteCovers_eq_any, List.any_eq_true, Plot.covers, Bool.and_eq_true, decide_eq_true_eq]
  constructor
  · rintro (hfalse | ⟨p, hp, hbit, hset⟩)
    · cases hfalse
    · exact ⟨_, _, hset, p, hp, hbit, rfl⟩
  · rintro ⟨x, y, hset, p, hp, hbit, hplace⟩
    exact .inr ⟨p, hp, hbit, by rwa [hplace]⟩

end

/-- An allowed configuration draws at most sixteen rows. -/
theorem State.length_spriteBytes_le {s : State} (h : s.cfg.wf = true) (n : BitVec 4) : (s.spriteBytes n).length ≤ 32 := by
  have hn := n.isLt
  simp only [Config.wf, Config.biasLegal, Bool.and_eq_true, decide_eq_true_eq] at h
  simp only [State.spriteBytes, List.length_map, List.length_range]
  omega

/-- The pixels after a DRW that completes. -/
theorem State.pixel_drawn {s : State} (h : s.cfg.wf = true) (vx vy : Reg) (n : BitVec 4) (x : Fin 64) (y : Fin 32) :
    (s.drawn vx vy n).fb.pixel x y = (s.fb.pixel x y ^^
      spriteCovers (s.spriteBytes n) ((s.reg vx).toNat % 64) ((s.reg vy).toNat % 32) x y) :=
  pixel_blit s.fb (State.length_spriteBytes_le h n) (s.reg vx) (s.reg vy) x y

/-- The registers after a DRW that completes: the collision in `VF`. -/
theorem State.reg_drawn (s : State) (vx vy : Reg) (n : BitVec 4) (k : Reg) : (s.drawn vx vy n).reg k =
    if VF = k then flagByte (blit s.fb (s.spriteBytes n) (s.reg vx) (s.reg vy)).collision else s.reg k :=
  State.reg_setReg _ VF k _

theorem flagByte_eq_one_iff (b : Bool) : flagByte b = 1 ↔ b = true := by
  cases b <;> decide

/-- Settles O44: every pixel of the cleared buffer is 0. -/
theorem clsClearsTheScreen : Obligations.ClsClearsTheScreen := fun _ => ⟨_, rfl, Framebuffer.pixel_clear, rfl⟩

/-- Settles O45: the pixels and the collision are those of the draw, and the collision is what `VF` holds. -/
theorem drawIsTheXorOfTheSprite : Obligations.DrawIsTheXorOfTheSprite := by
  intro vx vy n s hwf hrange
  have hflag := (s.reg_drawn vx vy n VF).trans (if_pos rfl)
  refine ⟨s.drawn vx vy n, exec_drw_inRange vx vy n s hrange, s.pixel_drawn hwf vx vy n, ?_, ?_, fun k hk => ?_, rfl⟩
  · rw [hflag]
    cases (blit s.fb (s.spriteBytes n) (s.reg vx) (s.reg vy)).collision
    · exact .inr rfl
    · exact .inl rfl
  · rw [hflag, flagByte_eq_one_iff]
    exact collision_blit s.fb (State.length_spriteBytes_le hwf n) _ _
  · exact (s.reg_drawn vx vy n k).trans (if_neg hk.symm)

/-- Settles O46: the second draw reads the same sprite and coordinates, so each pixel is flipped twice or not at all. -/
theorem drawingTwiceRestoresThePixels : Obligations.DrawingTwiceRestoresThePixels := by
  intro vx vy n s hwf hrange hx hy
  refine ⟨_, _, exec_drw_inRange vx vy n s hrange, exec_drw_inRange vx vy n (s.drawn vx vy n) hrange,
    Framebuffer.ext_pixel fun x y => ?_⟩
  have hvx : (s.drawn vx vy n).reg vx = s.reg vx := (s.reg_drawn vx vy n vx).trans (if_neg hx.symm)
  have hvy : (s.drawn vx vy n).reg vy = s.reg vy := (s.reg_drawn vx vy n vy).trans (if_neg hy.symm)
  have hsprite : (s.drawn vx vy n).spriteBytes n = s.spriteBytes n := rfl
  rw [State.pixel_drawn (s := s.drawn vx vy n) hwf, s.pixel_drawn hwf, hvx, hvy, hsprite, Bool.xor_assoc,
    Bool.xor_self, Bool.xor_false]

/-! ### The four transitions of the framebuffer (R140) -/

/-- What an instruction does to the framebuffer: nothing, or what CLS or a DRW that completes does. -/
theorem exec_fb_cases {i : Instr} {s t : State} (h : exec i s = .next t) :
    (t.fb = s.fb ∧ t.dirty = s.dirty) ∨ (i = .cls ∧ t.fb = Framebuffer.clear ∧ t.dirty = true) ∨
      ∃ vx vy n, i = .drw vx vy n ∧ t = s.drawn vx vy n := by
  obtain ⟨-, -, -, -, -, -, hfb, -⟩ := specialStateChangesOnlyByItsInstructions i s t h
  by_cases hsame : t.fb = s.fb ∧ t.dirty = s.dirty
  · exact .inl hsame
  · obtain rfl | ⟨vx, vy, n, rfl⟩ := hfb (not_and_or.1 hsame)
    · cases h
      exact .inr (.inl ⟨rfl, rfl, rfl⟩)
    · obtain ⟨-, e⟩ | ⟨-, e⟩ := execDrw_cases vx vy n s
      · cases e.symm.trans h
        exact .inr (.inr ⟨vx, vy, n, rfl, rfl⟩)
      · cases e.symm.trans h
        exact .inl ⟨rfl, rfl⟩

/-- What a STEP does to the framebuffer: nothing, or what the instruction it fetched does. -/
theorem stepEvent_fb_cases {s t : State} {rnd : Option Byte} (h : stepEvent rnd s = .next t) :
    (t.fb = s.fb ∧ t.dirty = s.dirty) ∨
      (s.CanFetch ∧ decode s.word = .ok .cls ∧ t.fb = Framebuffer.clear ∧ t.dirty = true) ∨
      ∃ vx vy n, s.CanFetch ∧ decode s.word = .ok (.drw vx vy n) ∧ t = (s.beginStep rnd).drawn vx vy n := by
  obtain ⟨-, e⟩ | ⟨-, -, e⟩ | ⟨hfault, hp, e⟩ := stepEvent_cases rnd s
  · cases e.symm.trans h
    exact .inl ⟨rfl, rfl⟩
  · cases e.symm.trans h
    exact .inl ⟨rfl, rfl⟩
  · have hfetch : s.CanFetch := ⟨hfault, by simp only [memSize] at hp; omega⟩
    rw [e] at h
    obtain ⟨i, hdec, hw⟩ | ⟨-, -, hw⟩ := execWord_cases (s.mem.wordAt s.cfg s.pc.toNat) (s.beginStep rnd)
    · obtain hsame | ⟨rfl, hfb, hdirty⟩ | ⟨vx, vy, n, rfl, ht⟩ := exec_fb_cases (hw.symm.trans h)
      · exact .inl hsame
      · exact .inr (.inl ⟨hfetch, hdec, hfb, hdirty⟩)
      · exact .inr (.inr ⟨vx, vy, n, hfetch, hdec, ht⟩)
    · cases hw.symm.trans h
      exact .inl ⟨rfl, rfl⟩

/-- Settles O18: event by event; a DRW flips the pixels of its sprite. -/
theorem framebufferHasFourTransitions : Obligations.FramebufferHasFourTransitions := by
  intro e s t hwf h
  cases e with
  | reset =>
    cases h
    exact .inr (.inl ⟨.inl rfl, Framebuffer.pixel_clear, rfl⟩)
  | load image =>
    cases h
    cases hfits : imageFits image
    · rw [State.loadImage_oversize s hfits]
      exact .inl ⟨rfl, rfl⟩
    · rw [State.loadImage_fits s hfits]
      exact .inr (.inl ⟨.inr ⟨image, rfl⟩, Framebuffer.pixel_clear, rfl⟩)
  | step rnd =>
    obtain hsame | ⟨hfetch, hdec, hfb, hdirty⟩ | ⟨vx, vy, n, hfetch, hdec, rfl⟩ := stepEvent_fb_cases h
    · exact .inl hsame
    · exact .inr (.inr (.inl ⟨rnd, rfl, hfetch, hdec, by rw [hfb]; exact Framebuffer.pixel_clear, hdirty⟩))
    · exact .inr (.inr (.inr (.inl ⟨rnd, vx, vy, n, rfl, hfetch, hdec, rfl,
        State.pixel_drawn (s := s.beginStep rnd) hwf vx vy n⟩)))
  | tick =>
    cases h
    exact .inl ⟨rfl, rfl⟩
  | setKey k pressed =>
    cases h
    exact .inl ⟨rfl, rfl⟩
  | readVideo =>
    cases h
    exact .inr (.inr (.inr (.inr ⟨rfl, rfl, rfl⟩)))

end Sys2Proof.Machine
end
